-- ==== Sys2Proof/Word.lean ====
section
/-! DEFINITION. The word types of the engine (00_scope.md section 5, rule R4).

The primitives of rule R4 are the operators of `BitVec`: `+` is `add64`, `*` is `mul64`, `<<<` is `shl64`, `>>>` is
`shr64` (logical), `~~~` is `not64`, `^^^` is `xor64`; each is taken modulo `2 ^ 64` and none can fail (rule R5).
`idx8`, the seventh, stands in Machine/Operands.lean. -/

namespace Sys2Proof

/-- A word: a 64-bit unsigned value (R3 `W`, R4). -/
abbrev Word := BitVec 64

/-- A unit of the byte source's stream (R30, R35). -/
abbrev Byte := BitVec 8

/-- An index into the pool or the output block: always 8 bits, 0..255 (R30, R31). -/
abbrev Index := BitVec 8

/-- A command word `CW` (R51): `op` in bits 66:64, `arg` in bits 63:0. -/
abbrev CommandWord := BitVec 67

/-- A response word `RW` (R56): `status` in bits 65:64, `data` in bits 63:0. -/
abbrev ResponseWord := BitVec 66

/-- The pool `buf` or the output block `out`: always exactly 256 words (R17). -/
abbrev Table := Vector Word 256

end Sys2Proof
end

