-- ==== Sys2Proof/Syntax.lean ====
section
/-! DEFINITION. The abstract syntax of the engine's interface (30_encoding.md): commands (R50), what a word decodes to
(R62), responses (R56), byte sources and their outcomes (R57), the host's actions (R150) and assembler lines (R59). -/

namespace Sys2Proof

/-- The five operations of rule R50, one constructor per row of the opcode table. -/
inductive Instr where
  /-- `NEW` (R70). -/
  | new
  /-- `SEED value` (R77): any 64-bit pattern is a legal seed (R53). -/
  | seed (value : Word)
  /-- `SEED_FROM` (R80): no operand in the command word. -/
  | seedFrom
  /-- `NEXT_UINT64` (R110). -/
  | nextUint64
  /-- `NEXT_INT63` (R111). -/
  | nextInt63
  deriving DecidableEq, Repr

/-- What a command word decodes to (R62): one of the five operations, or a reserved opcode, by its number (R55). -/
inductive Decoded where
  | instr (i : Instr)
  | reserved (op : BitVec 3)
  deriving DecidableEq, Repr

/-- A response, as rule R56's abstract type gives it. -/
inductive Response where
  | ok (data : Word)
  | shortRead
  | sourceFault (info : Word)
  | illegalCmd
  deriving DecidableEq, Repr

/-- The error conditions of rule R120, the complete list. -/
inductive ErrorCondition where
  /-- The byte source ended before 2048 bytes (R121). -/
  | shortRead
  /-- The byte source reported a failure of its own (R122). -/
  | sourceFault (info : Word)
  /-- The command word has a reserved opcode (R123). -/
  | illegalCmd
  deriving DecidableEq, Repr

/-- What a byte source does once it has delivered its bytes (R57). -/
inductive SourceEnd where
  /-- It ends. -/
  | ended
  /-- It reports a failure of its own, with the word it gives. -/
  | failed (info : Word)
  /-- It neither delivers a further byte, nor ends, nor fails. -/
  | silent
  deriving DecidableEq, Repr, Inhabited

/-- A byte source (R7, R57): the bytes it will deliver, in arrival order, and what it does after the last of them.
DEDUCED from the four outcomes of R57 and the corner cases of R80 to R82 (assumption log 5). -/
structure ByteSource where
  bytes  : List Byte
  ending : SourceEnd
  deriving DecidableEq, Repr, Inhabited

/-- What comes back from `SrcRead(src, 2048)` (R57): exactly one of four outcomes. -/
inductive SrcOutcome where
  /-- All 2048 bytes, in arrival order. -/
  | full (d : Vector Byte 2048)
  /-- The source ended after `n` bytes. -/
  | short (n : Fin 2048)
  /-- The source failed after `n` bytes. -/
  | fault (n : Fin 2048) (info : Word)
  /-- The source never answers. -/
  | never
  deriving DecidableEq, Repr

/-- What the host does next (R150): it raises the reset event, hands over a byte source, or issues a command word. -/
inductive HostInput where
  | reset
  | supply (src : ByteSource)
  | command (w : CommandWord)
  deriving DecidableEq, Repr

/-- The outcome a `SEED_FROM` line names (R59), as written: raw data, checked by `OutcomeText.wf`. -/
inductive OutcomeText where
  | full (bytes : List Byte)
  | short (n : Nat)
  | fault (n : Nat) (info : Word)
  deriving DecidableEq, Repr

/-- An assembler line (R59) or pseudo-operation (R60), as written: raw data, checked by `Line.wf`. -/
inductive Line where
  | new
  | seed (value : Int)
  | seedFrom (outcome : OutcomeText)
  | nextUint64
  | nextInt63
  | discard (n : Nat)
  | take (n : Nat)
  deriving DecidableEq, Repr

end Sys2Proof
end

