-- ==== Sys2Proof/Config.lean ====
section
/-! DEFINITION. The constants of rule R3 that the semantics uses, and the free values: what the spec leaves open.

A free value is an opaque constant: nothing in Lean can evaluate it, so a theorem that mentions one holds whatever it
is. Each is applied to a plain number (`State.draws`, a counter, or a position). -/

namespace Sys2Proof

/-- `N` (R3): words in the pool and in the output block, and mix steps in a pass. -/
abbrev Config.poolWords : Nat := 256

/-- `HALF` (R3): offset of the partner word in a mix step. -/
abbrev Config.half : Word := 128

/-- `GROUP` (R3): positions per group; the accumulator mix is chosen by `i mod 4`. -/
abbrev Config.group : Nat := 4

/-- `SEEDBYTES` (R3): bytes `SEED_FROM` reads. -/
abbrev Config.seedBytes : Nat := 2048

/-- `MUL1` (R3): first multiplier of the seed finalizer. -/
abbrev Config.mul1 : Word := 0xbf58476d1ce4e5b9

/-- `MUL2` (R3): second multiplier of the seed finalizer. -/
abbrev Config.mul2 : Word := 0x94d049bb133111eb

/-- `SourceConsumedOnFail` (D9, U3): a free number; `sourceAfterFailedRead` brings it into 0 .. the bytes available.
DESIGN CHOICE (the form; assumption log 7). -/
opaque Config.sourceConsumedOnFail : Nat → Nat

/-- What a byte source that has failed does from then on: the spec does not say, so any byte source at all.
DESIGN CHOICE (the form; assumption log 8). -/
opaque Config.sourceAfterFault : Nat → ByteSource

/-- The bytes that the source of a `short` or `fault` line delivers: rule R57 gives them no value.
DESIGN CHOICE (the form; assumption log 15). -/
opaque Config.unstatedByte : Nat → Byte

/-- What the source of a `full` line holds beyond its 2048 bytes: rule R57 does not say (assumption log 15). -/
opaque Config.sourceAfterFull : ByteSource

end Sys2Proof
end

