-- ==== Sys2Proof/WellFormed.lean ====
section
/-! DEFINITION. Well-formedness.

Every term of `Instr` is well-formed: its type holds nothing but the operations and operands rule R50 allows, and every
64-bit seed is legal (R53), so there is no check to make on it. The same holds of `SrcOutcome` (its counts are below
2048 and its block has 2048 bytes, R57) and of the engine's `cursor` (R16). The checks below are on assembler lines,
which are raw data (R59). -/

namespace Sys2Proof

/-- R57, R59: a `full` outcome names exactly 2048 bytes, a `short` or `fault` outcome a count in 0 .. 2047. -/
def OutcomeText.wf : OutcomeText → Bool
  | .full bytes => bytes.length == Config.seedBytes
  | .short n => decide (n < Config.seedBytes)
  | .fault n _ => decide (n < Config.seedBytes)

/-- R59: the value of a `SEED` line is in `-2^63 .. 2^64 - 1`; a `SEED_FROM` line names a well-formed outcome. -/
def Line.wf : Line → Bool
  | .new => true
  | .seed value => decide (-(2 ^ 63) ≤ value) && decide (value < 2 ^ 64)
  | .seedFrom outcome => outcome.wf
  | .nextUint64 => true
  | .nextInt63 => true
  | .discard _ => true
  | .take _ => true

end Sys2Proof
end

