-- ==== Sys2Proof/Decode.lean ====
section
/-! DEFINITION. The transport: decoding and encoding of command words (30_encoding.md R51 to R55, R58, R62), the encoding
of responses (R56), and the assembler (R59, R60). -/

namespace Sys2Proof

/-- `CW[66:64]`, the opcode (R51). -/
def opField (w : CommandWord) : BitVec 3 := w.extractLsb' 64 3

/-- `CW[63:0]`, the operand (R51). -/
def argField (w : CommandWord) : Word := w.extractLsb' 0 64

/-- Decode (R52, R53, R54, R55, R62): total, looks at `op` only, and at `arg` only to take the operand of `SEED`; a
reserved opcode is named. -/
def decode (w : CommandWord) : Decoded :=
  match (opField w).toNat with
  | 0 => .instr .new
  | 1 => .instr (.seed (argField w))
  | 2 => .instr .seedFrom
  | 3 => .instr .nextUint64
  | 4 => .instr .nextInt63
  | _ => .reserved (opField w)

/-- A command word from its two fields (R51). -/
def commandWord (op : BitVec 3) (arg : Word) : CommandWord := op ++ arg

/-- Encode (R52, R53, R59): the word of a command, ignored bits zero. -/
def encode : Instr → CommandWord
  | .new => commandWord 0 0
  | .seed value => commandWord 1 value
  | .seedFrom => commandWord 2 0
  | .nextUint64 => commandWord 3 0
  | .nextInt63 => commandWord 4 0

/-- The host's question about a row of spec/opcode_table.json: the instruction the decoder reads from the command word
whose bits are `w`. A command is one word of 67 bits (R51, R58), so a number of 68 bits or more is no command word
(assumption log 12); bits above `nbits` are zero in `w` itself, so the count is not needed. -/
def decodeTableWord (_nbits w : Nat) : Option Instr :=
  if w < 2 ^ 67 then
    match decode (BitVec.ofNat 67 w) with
    | .instr i => some i
    | .reserved _ => none
  else none

/-- The status code of a response (R56): `OK` 0, `SHORT_READ` 1, `SOURCE_FAULT` 2, `ILLEGAL_CMD` 3. -/
def Response.status : Response → BitVec 2
  | .ok _ => 0
  | .shortRead => 1
  | .sourceFault _ => 2
  | .illegalCmd => 3

/-- The data field of a response (R56): the data of `OK`, the `info` of `SOURCE_FAULT`, else 0. -/
def Response.data : Response → Word
  | .ok data => data
  | .shortRead => 0
  | .sourceFault info => info
  | .illegalCmd => 0

/-- The 66-bit response word (R56). -/
def Response.word (r : Response) : ResponseWord := r.status ++ r.data

/-- The `n` bytes a source delivers before it ends or fails, where a line names only their number: free values. -/
def unstatedBytes (n : Nat) : List Byte := (List.range n).map Config.unstatedByte

/-- A byte source whose 2048-byte request meets the outcome a `SEED_FROM` line names (R57, R59); what the outcome does not
say of it is free. -/
def OutcomeText.source : OutcomeText → ByteSource
  | .full bytes =>
    { bytes := bytes ++ Config.sourceAfterFull.bytes, ending := Config.sourceAfterFull.ending }
  | .short n => { bytes := unstatedBytes n, ending := .ended }
  | .fault n info => { bytes := unstatedBytes n, ending := .failed info }

/-- What the host does to run an assembler line (R59) or pseudo-operation (R60). -/
def assemble : Line → List HostInput
  | .new => [.command (encode .new)]
  | .seed value => [.command (encode (.seed (BitVec.ofInt 64 value)))]
  | .seedFrom outcome => [.supply outcome.source, .command (encode .seedFrom)]
  | .nextUint64 => [.command (encode .nextUint64)]
  | .nextInt63 => [.command (encode .nextInt63)]
  | .discard n => List.replicate n (.command (encode .nextUint64))
  | .take n => List.replicate n (.command (encode .nextUint64))

end Sys2Proof
end

