-- ==== Sys2Proof/Machine/State.lean ====
section
/-! DEFINITION. The state of the machine (10_state.md) and its value at reset (R23). -/

namespace Sys2Proof.Machine

/-- The architectural state of one engine: exactly the six items of rule R10. -/
structure Engine where
  /-- The pool (R11). -/
  buf    : Table
  /-- The output block (R12). -/
  out    : Table
  /-- The primary accumulator (R13). -/
  a      : Word
  /-- The inter-pass accumulator (R14). -/
  b      : Word
  /-- The pass counter (R15). -/
  c      : Word
  /-- The cursor: 0..256, where 256 means that the block is exhausted (R16, R18). -/
  cursor : Fin 257
  deriving DecidableEq, Repr

/-- The reset state `S_reset` (R23): the cursor at 256, everything else zero. -/
def Engine.reset : Engine :=
  { buf := Vector.replicate 256 0, out := Vector.replicate 256 0, a := 0, b := 0, c := 0, cursor := 256 }

/-- The state a step works on: the engine, which is all the spec's machine holds, and the model's own record of the two
other parties of rule R7, whose inputs and outputs the spec's step takes and gives (R7, R8). DESIGN CHOICE (assumption
log 1): the type of `step` admits no other argument or result. -/
structure State where
  /-- The spec's state. -/
  engine    : Engine
  /-- What the host does next, first to come first (R8: the command sequence of a run is a list, R146). -/
  inputs    : List HostInput
  /-- The byte source at the `SRC` channel (R30, R57). -/
  source    : ByteSource
  /-- The responses given so far, oldest first: the observation of a run (R8). -/
  responses : List Response
  /-- How many free values have been drawn: the argument of the next (D9; assumption log 7). -/
  draws     : Nat
  deriving DecidableEq, Repr

/-- The machine right after reset: the engine in `S_reset` (R23, R140); the host has issued nothing, the byte source is
empty and has ended, nothing has been answered, no free value drawn. DESIGN CHOICE for the last four (assumption logs 4,
6, 7): they are not the spec's state. -/
def State.reset : State :=
  { engine := Engine.reset, inputs := [], source := { bytes := [], ending := .ended }, responses := [], draws := 0 }

/-- Faults: none. Every operation of the engine is total (R5, R120) and its three error conditions are answered in
responses (R124), so no step of the model stops with a fault. Safe. -/
inductive Fault
  deriving DecidableEq, Repr

/-- Refusals. -/
inductive Refusal where
  /-- An instruction of the opcode table with no meaning yet. Raised by no arm of `exec`: all five have one. Safe. -/
  | notModelled (mnemonic : String)
  deriving DecidableEq, Repr

end Sys2Proof.Machine
end

