-- ==== Sys2Proof/Machine/Ops.lean ====
section
/-! DEFINITION. The named operations: reading and writing a word of the pool or the block, ending a command with its
response, raising an error condition (the engine's exception entry), what a `SEED_FROM` does to its byte source, and the
host's two actions that are no command. -/

namespace Sys2Proof.Machine

/-- `v[i]`: one whole word; every index names an ordinary word and a read changes nothing (R35, R36, R37). -/
def readWord (v : Table) (i : Index) : Word := v[i.toNat]

/-- `v[i] <- x` (R35, R37). -/
def writeWord (v : Table) (i : Index) (x : Word) : Table := v.set i.toNat x

/-- A command ends (R6, R39, R56): the engine holds `e`, the response `r` is given, and the host's next input is due. -/
def complete (e : Engine) (r : Response) (s : State) : State :=
  { s with engine := e, inputs := s.inputs.tail, responses := s.responses ++ [r] }

/-- The response of an error condition (R120, R121, R122, R123). -/
def errorResponse : ErrorCondition → Response
  | .shortRead => .shortRead
  | .sourceFault info => .sourceFault info
  | .illegalCmd => .illegalCmd

/-- Raising an error condition, the engine's equivalent of taking an exception (R124): the command ends at once, no state
of the engine is written, nothing is saved, no mode changes, and the response carries the condition. There is no return
operation (R126): the next command runs as after an `OK`. -/
def raise (err : ErrorCondition) (s : State) : State := complete s.engine (errorResponse err) s

/-- A successful `SEED_FROM` has taken exactly 2048 bytes; byte 2049, if there is one, stays with the source (R36, R80). -/
def sourceAfterFullRead (src : ByteSource) : ByteSource := { src with bytes := src.bytes.drop Config.seedBytes }

/-- The byte source after a failed `SEED_FROM`: some number of the bytes it had available, from none to all, are gone
(D9, U3: open, a free value, assumption log 7). A source that has ended stays so; what one that failed does next is free
(assumption log 8). A silent source fails no read (R84), so its arm is never asked. `draw` picks the free values. -/
def sourceAfterFailedRead (src : ByteSource) (draw : Nat) : ByteSource :=
  let left := src.bytes.drop (Config.sourceConsumedOnFail draw % (src.bytes.length + 1))
  match src.ending with
  | .ended => { bytes := left, ending := .ended }
  | .failed _ =>
    { bytes := left ++ (Config.sourceAfterFault draw).bytes, ending := (Config.sourceAfterFault draw).ending }
  | .silent => { bytes := left, ending := .silent }

/-- The byte source keeps what a successful `SEED_FROM` left of it. -/
def takeSeedBytes (s : State) : State := { s with source := sourceAfterFullRead s.source }

/-- The byte source after a failed `SEED_FROM`; the free values drawn are not drawn again. -/
def loseBytes (s : State) : State :=
  { s with source := sourceAfterFailedRead s.source s.draws, draws := s.draws + 1 }

/-- The reset event (R140): the engine goes to `S_reset`; the host gets nothing back (R150). -/
def hostReset (s : State) : State := { s with engine := Engine.reset, inputs := s.inputs.tail }

/-- The host hands over a byte source for the `SEED_FROM`s to come (R150); the engine is not concerned. -/
def hostSupply (src : ByteSource) (s : State) : State := { s with source := src, inputs := s.inputs.tail }

/-- A command word with a reserved opcode (R55, R123): answered `ILLEGAL_CMD`, nothing changes (assumption log 9). -/
def reservedCommand (s : State) : State := raise .illegalCmd s

end Sys2Proof.Machine
end

