-- ==== Sys2Proof/Machine/Construction.lean ====
section
/-! DEFINITION. Construction: `NEW` (40_construction.md). -/

namespace Sys2Proof.Machine

/-- `NEW` (R70): the engine goes to `S_reset`, whatever state it was in; no pass runs; response `(OK, 0)`. -/
def execNew (s : State) : Host.Outcome State Fault Refusal := .next (complete Engine.reset (.ok 0) s)

end Sys2Proof.Machine
end

