-- ==== Sys2Proof/Machine/Flags.lean ====
section
/-! DEFINITION. Flags: the engine has none and no operation writes a status bit (R20). The one predicate the rules test is
`exhausted`, a function of the cursor. -/

namespace Sys2Proof.Machine

/-- `exhausted := (cursor == 256)` (R20): every word of the block has been returned, or no block was ever produced. -/
def exhausted (e : Engine) : Bool := e.cursor == 256

end Sys2Proof.Machine
end

