-- ==== Sys2Proof/Machine/Operands.lean ====
section
/-! DEFINITION. Operand forms: the indices into the pool (R31), the little-endian word of eight seed bytes (R32), the
byte format of a serialised word (R33), and the request to the byte source (R57). -/

namespace Sys2Proof.Machine

/-- `idx8` (R4): the low 8 bits of a word; the only way an index is formed from a word (R31). -/
def idx8 (x : Word) : Index := x.setWidth 8

/-- The position of a mix step as an index (R92: `i` in 0..255). -/
def stepIndex (n : Nat) : Index := BitVec.ofNat 8 n

/-- The partner index `idx8(i + 128)` (R31, R94). -/
def partnerIndex (i : Index) : Index := idx8 (i.setWidth 64 + Config.half)

/-- The index of the first lookup, `idx8(x >> 3)` (R31, R94). -/
def firstLookup (x : Word) : Index := idx8 (x >>> 3)

/-- The index of the second lookup, `idx8(y >> 11)` (R31, R94). -/
def secondLookup (y : Word) : Index := idx8 (y >>> 11)

/-- `k = i mod 4`, the position within the group (R92, R93). -/
def groupPosition (i : Index) : Fin 4 := Fin.ofNat Config.group i.toNat

/-- `zext_64(d[8j + k])` (R32). -/
def seedByte (d : Vector Byte 2048) (j : Fin 256) (k : Fin 8) : Word := (d[8 * j.val + k.val]).setWidth 64

/-- `LEWORD(d, j)` (R32): bytes `8j .. 8j + 7`, the first to arrive least significant. -/
def leWord (d : Vector Byte 2048) (j : Fin 256) : Word :=
  seedByte d j 0 + seedByte d j 1 <<< 8 + seedByte d j 2 <<< 16 + seedByte d j 3 <<< 24 +
    seedByte d j 4 <<< 32 + seedByte d j 5 <<< 40 + seedByte d j 6 <<< 48 + seedByte d j 7 <<< 56

/-- The 8 bytes a platform emits for a returned word (R33): `w[7:0]` first. The serialiser is outside the engine (R2). -/
def outputBytes (w : Word) : Vector Byte 8 := Vector.ofFn fun k => w.extractLsb' (8 * k.val) 8

/-- The first 2048 bytes of a source that has as many, in arrival order. -/
def seedBlock (src : ByteSource) (h : Config.seedBytes ≤ src.bytes.length) : Vector Byte 2048 :=
  ⟨(src.bytes.take Config.seedBytes).toArray, by
    rw [List.size_toArray, List.length_take]; exact Nat.min_eq_left h⟩

/-- `SrcRead(src, 2048)` (R57, R80 to R84): only the total counts; bytes beyond the 2048th are not asked for. -/
def srcRead (src : ByteSource) : SrcOutcome :=
  if h : Config.seedBytes ≤ src.bytes.length then .full (seedBlock src h)
  else
    match src.ending with
    | .ended => .short ⟨src.bytes.length, Nat.lt_of_not_le h⟩
    | .failed info => .fault ⟨src.bytes.length, Nat.lt_of_not_le h⟩ info
    | .silent => .never

end Sys2Proof.Machine
end

