-- ==== Sys2Proof/Machine/Permutation.lean ====
section
/-! DEFINITION. The permutation pass `SHUFFLE` and its parts (42_permutation.md). -/

namespace Sys2Proof.Machine

/-- `AMIX(k, a)`, the accumulator mix (R93): plain shifts, never rotates (C8). -/
def amix (k : Fin 4) (a : Word) : Word :=
  match k with
  | 0 => ~~~a ^^^ (a <<< 21)
  | 1 => a ^^^ (a >>> 5)
  | 2 => a ^^^ (a <<< 12)
  | 3 => a ^^^ (a >>> 33)

/-- `MIXSTEP(i)` (R94, R95), its six effects in order: (1) read `x`; (2) write `a`; (3) first lookup, before the write of
`buf[i]`; (4) write `buf[i]`; (5) second lookup, after it; (6) write `out[i]`, the new `b`. -/
def mixStep (i : Index) (e : Engine) : Engine :=
  let m := amix (groupPosition i) e.a
  let x := readWord e.buf i
  let a := m + readWord e.buf (partnerIndex i)
  let y := readWord e.buf (firstLookup x) + a + e.b
  let buf := writeWord e.buf i y
  let b := readWord buf (secondLookup y) + x
  { e with buf := buf, out := writeWord e.out i b, a := a, b := b }

/-- The first `n` mix steps of a pass, positions `0, 1, ..., n - 1` in that order (R92): step `n` works on what the steps
before it left (R96, R143). -/
def mixSteps : Nat → Engine → Engine
  | 0, e => e
  | n + 1, e => mixStep (stepIndex n) (mixSteps n e)

/-- The prologue (R91): `c <- c + 1`, then `b <- b + c` with the new `c`. -/
def prologue (e : Engine) : Engine := { e with c := e.c + 1, b := e.b + (e.c + 1) }

/-- `SHUFFLE()` (R98): the prologue, 256 mix steps, and the epilogue `cursor <- 0` (R97). Irreducible for the elaborator
only, so that it never unrolls a pass by accident: proofs use `shuffle_eq` and the lemmas after it (Laws/State.lean), and
the kernel evaluates it all the same. -/
@[irreducible] def shuffle (e : Engine) : Engine := { mixSteps Config.poolWords (prologue e) with cursor := 0 }

end Sys2Proof.Machine
end

