-- ==== Sys2Proof/Machine/Extraction.lean ====
section
/-! DEFINITION. Extraction: `NEXT_UINT64` and `NEXT_INT63` (43_extraction.md). -/

namespace Sys2Proof.Machine

/-- `if cursor == 256: SHUFFLE()` (R110): the pass is lazy (R90, C7). -/
def refill (e : Engine) : Engine := if exhausted e then shuffle e else e

/-- After the test the cursor is in 0..255 (R16, R110). -/
theorem refill_cursor_lt (e : Engine) : (refill e).cursor.val < 256 := by
  unfold refill
  split
  · unfold shuffle
    exact Nat.zero_lt_succ 255
  · next h =>
    have hlt := e.cursor.isLt
    have hne : e.cursor.val ≠ 256 := fun hv => h (by
      unfold exhausted
      exact beq_iff_eq.mpr (Fin.ext hv))
    omega

/-- `w = out[cursor]`, then `cursor <- cursor + 1`, for a cursor in 0..255 (R110). -/
def takeWord (e : Engine) (h : e.cursor.val < 256) : Word × Engine :=
  (e.out[e.cursor.val], { e with cursor := ⟨e.cursor.val + 1, Nat.succ_lt_succ h⟩ })

/-- One extraction (R110): the word taken and the engine after it. -/
def extract (e : Engine) : Word × Engine := takeWord (refill e) (refill_cursor_lt e)

/-- `NEXT_UINT64` (R110): response `(OK, w)`. -/
def execNextUint64 (s : State) : Host.Outcome State Fault Refusal :=
  .next (complete (extract s.engine).2 (.ok (extract s.engine).1) s)

/-- `NEXT_INT63` (R111): the same state change; response `(OK, w >> 1)`, a logical shift. -/
def execNextInt63 (s : State) : Host.Outcome State Fault Refusal :=
  .next (complete (extract s.engine).2 (.ok ((extract s.engine).1 >>> 1)) s)

end Sys2Proof.Machine
end

