-- ==== Sys2Proof/Machine/Seeding.lean ====
section
/-! DEFINITION. Seeding: `SEED` and `SEED_FROM` (41_seeding.md). -/

namespace Sys2Proof.Machine

/-- `FMIX(z)`, the seed finalizer (R75): three xor-shifts and two multiplications (C2). -/
def fmix (z : Word) : Word :=
  let z := z ^^^ (z >>> 30)
  let z := z * Config.mul1
  let z := z ^^^ (z >>> 27)
  let z := z * Config.mul2
  z ^^^ (z >>> 31)

/-- `POOLFILL(value)` (R76): `buf[i] <- FMIX(zext_64(i) + value)`. -/
def poolFill (value : Word) : Table := Vector.ofFn fun i => fmix (BitVec.ofNat 64 i.val + value)

/-- The byte load of a successful `SEED_FROM` (R81, R85): `buf[j] <- LEWORD(d, j)`, no mixing. -/
def loadPool (d : Vector Byte 2048) : Table := Vector.ofFn fun j => leWord d j

/-- What both seedings do with their pool (R77, R81): store it, clear `a`, `b`, `c`, run one pass. -/
def seedWith (pool : Table) (e : Engine) : Engine := shuffle { e with buf := pool, a := 0, b := 0, c := 0 }

/-- `SEED value` (R77): response `(OK, 0)`. -/
def execSeed (value : Word) (s : State) : Host.Outcome State Fault Refusal :=
  .next (complete (seedWith (poolFill value) s.engine) (.ok 0) s)

/-- `SEED_FROM` (R80), by the outcome of its request: `Full` seeds the engine (R81); `Short` raises `SHORT_READ` (R82);
`Fault` raises `SOURCE_FAULT` (R83); on `Never` the command does not complete: no state changes, no response is given, no
other command is accepted (R84), so the state stays as it is (assumption log 2). -/
def execSeedFrom (s : State) : Host.Outcome State Fault Refusal :=
  match srcRead s.source with
  | .full d => .next (complete (seedWith (loadPool d) s.engine) (.ok 0) (takeSeedBytes s))
  | .short _ => .next (raise .shortRead (loseBytes s))
  | .fault _ info => .next (raise (.sourceFault info) (loseBytes s))
  | .never => .next s

end Sys2Proof.Machine
end

