-- ==== Sys2Proof/Machine/Dispatch.lean ====
section
/-! DEFINITION. One arm per command (R50), each one call of its meaning. -/

namespace Sys2Proof.Machine

/-- Executing a command. -/
def exec (i : Instr) (s : State) : Host.Outcome State Fault Refusal :=
  match i with
  | .new => Sys2Proof.Machine.execNew s
  | .seed value => Sys2Proof.Machine.execSeed value s
  | .seedFrom => Sys2Proof.Machine.execSeedFrom s
  | .nextUint64 => Sys2Proof.Machine.execNextUint64 s
  | .nextInt63 => Sys2Proof.Machine.execNextInt63 s

end Sys2Proof.Machine
end

