-- ==== Sys2Proof/Machine/Step.lean ====
section
/-! DEFINITION. One step: the host's next input, and nothing else (R6, R7, R8). -/

namespace Sys2Proof.Machine

/-- One step. With no input the engine does not step (R7: no background activity), so the state stays as it is
(assumption log 3). A reset event and a byte source handed over are taken; a command word is decoded (R62) and executed,
a reserved one answered (R55). -/
def step (s : State) : Host.Outcome State Fault Refusal :=
  match s.inputs with
  | [] => .next s
  | .reset :: _ => .next (hostReset s)
  | .supply src :: _ => .next (hostSupply src s)
  | .command w :: _ =>
    match decode w with
    | .instr i => exec i s
    | .reserved _ => .next (reservedCommand s)

/-- `s` with the command word of bits `w` as the host's very next input: the engine fetches no program, commands come from
the host (R19, R41; assumption log 4). -/
def State.withFetchWord (s : State) (_nbits w : Nat) : State :=
  { s with inputs := .command (BitVec.ofNat 67 w) :: s.inputs }

end Sys2Proof.Machine
end

