-- ==== Sys2Proof/Safety.lean ====
section
/-! DEFINITION. The terms the claims use: runs, the host's inputs by kind, repeated passes, what an extraction answers, the
invariant of a pass, and the equations of a pass as rules R94 and R98 list them. -/

namespace Sys2Proof.Machine

/-- A run of `n` steps. -/
def runs (n : Nat) (s : State) : Host.Outcome State Fault Refusal := Host.Core.run Sys2Proof.core n s

/-- The state after reset, for a host that will do `inputs` (R8, R140). -/
def started (inputs : List HostInput) : State := { State.reset with inputs := inputs }

/-- The host's next input is the command `i` (R62). -/
def NextCommand (i : Instr) (s : State) : Prop := ∃ w rest, s.inputs = .command w :: rest ∧ decode w = .instr i

/-- The host's next input is a command word with a reserved opcode (R55). -/
def NextReserved (s : State) : Prop := ∃ w rest op, s.inputs = .command w :: rest ∧ decode w = .reserved op

/-- The engine waits: it executes a `SEED_FROM` whose byte source never answers (R84). -/
def Waiting (s : State) : Prop := NextCommand .seedFrom s ∧ srcRead s.source = .never

/-- An input that is a command word, of whatever opcode (R51). -/
def isCommand : HostInput → Bool
  | .reset => false
  | .supply _ => false
  | .command _ => true

/-- An input that no byte source can hold up (R149): all but a `SEED_FROM`. -/
def needsNoSource : HostInput → Bool
  | .reset => true
  | .supply _ => true
  | .command w => decode w != .instr .seedFrom

/-- The host inputs of a list of commands. -/
def issue (cmds : List Instr) : List HostInput := cmds.map fun i => .command (encode i)

/-- The commands that take a word of the output stream (R112). -/
def isExtraction (i : Instr) : Bool := i == .nextUint64 || i == .nextInt63

/-- The data of an extraction's response, from the word taken (R110, R111). -/
def drawnData (i : Instr) (w : Word) : Word := if i = .nextInt63 then w >>> 1 else w

/-- `n` passes, one after another. -/
def passes : Nat → Engine → Engine
  | 0, e => e
  | n + 1, e => shuffle (passes n e)

/-- Word `n` of a stream whose first block is `block` passes away from `e` (R112): element `n mod 256` of that block or a
later one, as an extraction `i` answers it. -/
def streamAnswer (block : Nat) (e : Engine) (n : Nat) (i : Instr) : Response :=
  .ok (drawnData i (readWord (passes (block + n / 256) e).out (stepIndex (n % 256))))

/-- The answers of the extractions `cmds` to the words of one block, from its first on (R113). -/
def blockAnswers (block : Table) (cmds : List Instr) : List Response :=
  cmds.mapIdx fun n i => .ok (drawnData i (readWord block (stepIndex n)))

/-- The cursor after `t` extractions that began with the cursor at `start` 0 or 256 (R112). -/
def cursorAfter (start t : Nat) : Nat := if t = 0 then start else (t - 1) % 256 + 1

/-- After a pass `b` is the last word of the block (R14, R78); both are zero at reset. -/
def LastWordIsB (e : Engine) : Prop := e.b = e.out[255]

/-- The accumulator mix of position `i`, as the `case i mod 4` of rule R98 writes it. -/
def mixFormula (i : Nat) (a : Word) : Word :=
  match i % 4 with
  | 0 => ~~~a ^^^ (a <<< 21)
  | 1 => a ^^^ (a >>> 5)
  | 2 => a ^^^ (a <<< 12)
  | _ => a ^^^ (a >>> 33)

/-- The six effects of mix step `i` as equations between the pool `p` and accumulators `a`, `b` before it and the pool `p'`
and accumulators `a'`, `b'` after it (R94); `b'` is also the word written to `out[i]`. -/
def MixEquations (i : Nat) (p : Table) (a b : Word) (p' : Table) (a' b' : Word) : Prop :=
  let x := readWord p (stepIndex i)
  let y := readWord p (idx8 (x >>> 3)) + a' + b
  a' = mixFormula i a + readWord p (stepIndex ((i + 128) % 256)) ∧
    readWord p' (stepIndex i) = y ∧
    (∀ j : Index, j ≠ stepIndex i → readWord p' j = readWord p j) ∧
    b' = readWord p' (idx8 (y >>> 11)) + x

/-- The course of a pass from `e` (R98): the pool and the accumulators before step 0, after step 0, ..., after step 255. -/
def PassTrace (e : Engine) (P : Nat → Table) (A B : Nat → Word) : Prop :=
  P 0 = e.buf ∧ A 0 = e.a ∧ B 0 = e.b + (e.c + 1) ∧
    ∀ i, i < 256 → MixEquations i (P i) (A i) (B i) (P (i + 1)) (A (i + 1)) (B (i + 1))

end Sys2Proof.Machine
end

