-- ==== Sys2Proof/Certificates/Slice0/Obligations.lean ====
section
/-! DEFINITION. The statements about the engine. Each docstring names the rule it comes from; where a clause is the spec's
own decision or derivation, or the model's choice, it says so. -/

open Sys2Proof Sys2Proof.Machine

/-! ### Transport -/

/-- R62: decode is total, and encoding and decoding agree: every command decodes from its word; a word that decodes to a
command is that command's word, apart from the bits it ignores; and a word is reserved exactly when its opcode is 5, 6 or
7. The spec marks R62 as its own derivation, from decisions D3 to D5. -/
def Obligations.DecodeEncodeAgree : Prop :=
  (∀ i : Instr, decode (encode i) = .instr i) ∧
  (∀ (w : CommandWord) (v : Word), decode w = .instr (.seed v) → encode (.seed v) = w) ∧
  (∀ (w : CommandWord) (i : Instr), decode w = .instr i → (∀ v, i ≠ .seed v) →
    encode i = w &&& 0x70000000000000000) ∧
  (∀ w : CommandWord, 5 ≤ (opField w).toNat ↔ decode w = .reserved (opField w)) ∧
  (∀ (w : CommandWord) (op : BitVec 3), decode w = .reserved op → op = opField w)

/-- R52, R55 (decisions D3, D4): a word selects the row whose match value it shows under the mask. -/
def Obligations.OpcodeMap : Prop :=
  ∀ w : CommandWord,
    decode w =
      if w &&& 0x70000000000000000 = 0x00000000000000000 then .instr .new
      else if w &&& 0x70000000000000000 = 0x10000000000000000 then .instr (.seed (w.setWidth 64))
      else if w &&& 0x70000000000000000 = 0x20000000000000000 then .instr .seedFrom
      else if w &&& 0x70000000000000000 = 0x30000000000000000 then .instr .nextUint64
      else if w &&& 0x70000000000000000 = 0x40000000000000000 then .instr .nextInt63
      else .reserved (w.extractLsb' 64 3)

/-- R54 (decision D5): for every opcode but that of `SEED` the 64 `arg` bits make no difference. -/
def Obligations.ArgIgnored : Prop :=
  ∀ (op : BitVec 3) (arg arg' : Word), op ≠ 1 → decode (commandWord op arg) = decode (commandWord op arg')

/-- R53, R59 (decisions D7, D21): the operand of `SEED` is the whole of `arg`; a well-formed line `SEED s` is one command
word whose operand is `s` modulo `2^64`. -/
def Obligations.SeedOperand : Prop :=
  (∀ v : Word, decode (commandWord 1 v) = .instr (.seed v)) ∧
  (∀ s : Int, (Line.seed s).wf = true → ∃ (w : CommandWord) (v : Word),
    assemble (.seed s) = [.command w] ∧ decode w = .instr (.seed v) ∧ (v.toNat : Int) = s % 2 ^ 64)

/-- R52, vector V11: words written out from the table decode to the commands they stand for. -/
def Obligations.DecodeWords : Prop :=
  decode 0x00000000000000000 = .instr .new ∧
  decode 0x1000000000000002a = .instr (.seed 42) ∧
  decode 0x1ffffffffffffffff = .instr (.seed 0xffffffffffffffff) ∧
  decode 0x20000000000000000 = .instr .seedFrom ∧
  decode 0x3deadbeef00000001 = .instr .nextUint64 ∧
  decode 0x40000000000000000 = .instr .nextInt63 ∧
  decode 0x7ffffffffffffffff = .reserved 7

/-- R56 (decision D6): the response word is the status code in bits 65:64 and the data in bits 63:0, and no two responses
have the same word. -/
def Obligations.ResponseWords : Prop :=
  (∀ d : Word, (Response.ok d).word.extractLsb' 64 2 = 0 ∧ (Response.ok d).word.extractLsb' 0 64 = d) ∧
  Response.shortRead.word = 0x10000000000000000 ∧
  (∀ info : Word, (Response.sourceFault info).word.extractLsb' 64 2 = 2 ∧
    (Response.sourceFault info).word.extractLsb' 0 64 = info) ∧
  Response.illegalCmd.word = 0x30000000000000000 ∧
  (∀ r r' : Response, r.word = r'.word → r = r')

/-- R57, R59 (decisions D8, D21): the byte source of a well-formed `SEED_FROM` line meets the outcome the line names. That
the line becomes an input that hands the source over, followed by the command, is the model's choice (assumption log 5);
what the outcome does not say of the source is free (assumption log 15). -/
def Obligations.SeedFromLine : Prop :=
  (∀ o : OutcomeText, assemble (.seedFrom o) = [.supply o.source, .command (encode .seedFrom)]) ∧
  (∀ bytes : List Byte, (OutcomeText.full bytes).wf = true →
    ∃ d, srcRead (OutcomeText.full bytes).source = .full d ∧ d.toList = bytes) ∧
  (∀ n : Fin 2048, srcRead (OutcomeText.short n.val).source = .short n) ∧
  (∀ (n : Fin 2048) (info : Word), srcRead (OutcomeText.fault n.val info).source = .fault n info) ∧
  (∀ n : Nat, (OutcomeText.short n).wf = true ↔ n ≤ 2047)

/-- R60 (decision D21): `DISCARD n` and `TAKE n` are `NEXT_UINT64`, `n` times. -/
def Obligations.PseudoOperations : Prop :=
  ∀ n : Nat, assemble (.discard n) = issue (List.replicate n .nextUint64) ∧
    assemble (.take n) = issue (List.replicate n .nextUint64)

/-! ### Reset, construction, the host -/

/-- R23: the reset state. -/
def Obligations.ResetState : Prop :=
  State.reset.engine.cursor.val = 256 ∧ State.reset.engine.a = 0 ∧ State.reset.engine.b = 0 ∧
  State.reset.engine.c = 0 ∧
  ∀ j : Index, readWord State.reset.engine.buf j = 0 ∧ readWord State.reset.engine.out j = 0

/-- R140, R150 (decision D13): the reset event has the effect of `NEW` on the engine and answers nothing. -/
def Obligations.HostResetIsNew : Prop :=
  ∀ (s : State) (rest : List HostInput), s.inputs = .reset :: rest →
    step s = .next { s with engine := Engine.reset, inputs := rest } ∧
    ∃ t, exec .new s = .next t ∧ t.engine = Engine.reset

/-- R70: `NEW` puts the engine into the reset state, whatever state it was in, answers `(OK, 0)` and changes nothing
else. -/
def Obligations.NewAnswers : Prop :=
  ∀ s : State, exec .new s = .next
    { engine := { buf := Vector.replicate 256 0, out := Vector.replicate 256 0, a := 0, b := 0, c := 0, cursor := 256 },
      inputs := s.inputs.tail, source := s.source, responses := s.responses ++ [.ok 0], draws := s.draws }

/-- R7: with no input the engine does not step. That this is a step to the same state is the model's choice (assumption
log 3). -/
def Obligations.IdleChangesNothing : Prop := ∀ s : State, s.inputs = [] → step s = .next s

/-- R150: handing over a byte source changes nothing of the engine and is not answered. That it is a step of its own is the
model's choice (assumption log 5). -/
def Obligations.SupplyTouchesNoEngine : Prop :=
  ∀ (s : State) (src : ByteSource) (rest : List HostInput), s.inputs = .supply src :: rest →
    step s = .next { s with source := src, inputs := rest }

/-- R62, R50: when the host's next input is a word that decodes to a command, a step is the execution of that command;
nothing is added around it. -/
def Obligations.StepRunsDecoded : Prop :=
  ∀ (s : State) (w : CommandWord) (rest : List HostInput) (i : Instr),
    s.inputs = .command w :: rest → decode w = .instr i → step s = exec i s

/-! ### Operand forms and word functions -/

/-- R31: the three derived index forms of a mix step, in bit terms. The bit terms are the spec's own derivation. -/
def Obligations.IndexForms : Prop :=
  (∀ i : Index, partnerIndex i = i ^^^ 0x80 ∧ (partnerIndex i).toNat = (i.toNat + 128) % 256) ∧
  (∀ x : Word, firstLookup x = x.extractLsb' 3 8 ∧ (firstLookup x).toNat = x.toNat / 2 ^ 3 % 256) ∧
  (∀ y : Word, secondLookup y = y.extractLsb' 11 8 ∧ (secondLookup y).toNat = y.toNat / 2 ^ 11 % 256)

/-- R32: the word of eight seed bytes, little-endian, and the pool that is loaded with such words. -/
def Obligations.SeedBytesLittleEndian : Prop :=
  ∀ (d : Vector Byte 2048) (j : Fin 256),
    (leWord d j).toNat =
      d[8 * j.val].toNat + d[8 * j.val + 1].toNat * 2 ^ 8 + d[8 * j.val + 2].toNat * 2 ^ 16 +
      d[8 * j.val + 3].toNat * 2 ^ 24 + d[8 * j.val + 4].toNat * 2 ^ 32 + d[8 * j.val + 5].toNat * 2 ^ 40 +
      d[8 * j.val + 6].toNat * 2 ^ 48 + d[8 * j.val + 7].toNat * 2 ^ 56 ∧
    readWord (loadPool d) (stepIndex j.val) = leWord d j ∧
    (readWord (loadPool d) 0).extractLsb' 0 8 = d[0] ∧ (readWord (loadPool d) 255).extractLsb' 56 8 = d[2047]

/-- R33: a serialised word is its 8 bytes, least significant first, and they make up the word. -/
def Obligations.OutputBytesLittleEndian : Prop :=
  ∀ w : Word, (∀ k : Fin 8, (outputBytes w)[k.val] = w.extractLsb' (8 * k.val) 8) ∧
    w.toNat =
      (outputBytes w)[0].toNat + (outputBytes w)[1].toNat * 2 ^ 8 + (outputBytes w)[2].toNat * 2 ^ 16 +
      (outputBytes w)[3].toNat * 2 ^ 24 + (outputBytes w)[4].toNat * 2 ^ 32 + (outputBytes w)[5].toNat * 2 ^ 40 +
      (outputBytes w)[6].toNat * 2 ^ 48 + (outputBytes w)[7].toNat * 2 ^ 56

/-- R57, R80 (decision D8): the outcome of the 2048-byte request, by what the byte source holds; bytes beyond the 2048th are
not looked at. That a byte source is a list of bytes and an ending is the model's reading (assumption log 5). -/
def Obligations.SourceOutcomes : Prop :=
  ∀ (bytes : List Byte) (ending : SourceEnd),
    (2048 ≤ bytes.length → ∃ d : Vector Byte 2048, d.toList = bytes.take 2048 ∧
      srcRead { bytes := bytes, ending := ending } = .full d) ∧
    (∀ h : bytes.length < 2048, srcRead { bytes := bytes, ending := .ended } = .short ⟨bytes.length, h⟩ ∧
      (∀ info, srcRead { bytes := bytes, ending := .failed info } = .fault ⟨bytes.length, h⟩ info) ∧
      srcRead { bytes := bytes, ending := .silent } = .never)

/-- R75: the finalizer's five stages, on numbers, and its value at 0 and at 1. -/
def Obligations.FinalizerStages : Prop :=
  (∀ z z1 z2 z3 z4 : Word,
    z1 = z ^^^ (z >>> 30) → z2.toNat = z1.toNat * 0xbf58476d1ce4e5b9 % 2 ^ 64 → z3 = z2 ^^^ (z2 >>> 27) →
    z4.toNat = z3.toNat * 0x94d049bb133111eb % 2 ^ 64 → fmix z = z4 ^^^ (z4 >>> 31)) ∧
  fmix 0 = 0 ∧ fmix 1 = 0x5692161d100b05e5

/-- R75: the finalizer is a bijection, so only 0 gives 0. The spec marks this as its own derivation. -/
def Obligations.FinalizerBijective : Prop := Function.Bijective fmix ∧ ∀ z : Word, fmix z = 0 ↔ z = 0

/-- R76: the pool of a seed, word by word; the pools of neighbouring seeds overlap; different seeds have different pools.
The last two are the spec's own derivations (R76, R77 corner cases). -/
def Obligations.PoolOfSeed : Prop :=
  (∀ (v : Word) (i : Index), readWord (poolFill v) i = fmix (i.setWidth 64 + v)) ∧
  (∀ (v : Word) (n : Nat), n < 255 →
    readWord (poolFill (v + 1)) (stepIndex n) = readWord (poolFill v) (stepIndex (n + 1))) ∧
  (∀ v w : Word, poolFill v = poolFill w → v = w)

/-- R93: the four accumulator mixes, with the values of the rule's table. That the two forms of the first agree is the
spec's own derivation. -/
def Obligations.AccumulatorMix : Prop :=
  (∀ a : Word,
    amix 0 a = ~~~a ^^^ (a <<< 21) ∧ amix 0 a = ~~~(a ^^^ (a <<< 21)) ∧ amix 1 a = a ^^^ (a >>> 5) ∧
    amix 2 a = a ^^^ (a <<< 12) ∧ amix 3 a = a ^^^ (a >>> 33)) ∧
  amix 0 0 = 0xffffffffffffffff ∧ amix 1 0 = 0 ∧ amix 2 0 = 0 ∧ amix 3 0 = 0 ∧
  amix 0 0xffffffffffffffff = 0xffffffffffe00000 ∧ amix 1 0xffffffffffffffff = 0xf800000000000000 ∧
  amix 2 0xffffffffffffffff = 0x0000000000000fff ∧ amix 3 0xffffffffffffffff = 0xffffffff80000000 ∧
  amix 0 0x0123456789abcdef = 0x522d8fe1cbb43210 ∧ amix 1 0x0123456789abcdef = 0x012a5f4cb5e69380 ∧
  amix 2 0x0123456789abcdef = 0x35753dfd35753def ∧ amix 3 0x0123456789abcdef = 0x01234567893a6f5c

/-! ### The permutation pass -/

/-- R94: the effects of one mix step, and that it writes nothing but `a`, `b`, `buf[i]` and `out[i]`. -/
def Obligations.MixStepEffects : Prop :=
  ∀ (i : Nat) (e : Engine), i < 256 →
    let e' := mixStep (stepIndex i) e
    MixEquations i e.buf e.a e.b e'.buf e'.a e'.b ∧
    readWord e'.out (stepIndex i) = e'.b ∧
    (∀ j : Index, j ≠ stepIndex i → readWord e'.out j = readWord e.out j) ∧
    e'.c = e.c ∧ e'.cursor = e.cursor

/-- R95: what the reads of a mix step see: the first lookup at `i` the old word `x`, the second at `i` the new word `y`; the
partner is never `i`; `out[i]` is the new `b`. -/
def Obligations.MixStepLookups : Prop :=
  ∀ (i : Index) (e : Engine),
    let e' := mixStep i e
    let x := readWord e.buf i
    let y := readWord e'.buf i
    (idx8 (x >>> 3) = i → y = x + e'.a + e.b) ∧
    (idx8 (x >>> 3) ≠ i → y = readWord e'.buf (idx8 (x >>> 3)) + e'.a + e.b) ∧
    (idx8 (y >>> 11) = i → e'.b = y + x) ∧
    (idx8 (y >>> 11) ≠ i → e'.b = readWord e.buf (idx8 (y >>> 11)) + x) ∧
    partnerIndex i ≠ i ∧ readWord e'.buf (partnerIndex i) = readWord e.buf (partnerIndex i) ∧
    readWord e'.out i = e'.b

/-- R96: before step `n` the pool and the block hold this pass's word below `n` and the word from before the pass from `n`
on. The spec marks R96 as its own derivation. -/
def Obligations.PassInPlace : Prop :=
  ∀ (e : Engine) (n j : Nat), n ≤ 256 → j < 256 →
    (n ≤ j → readWord (mixSteps n e).buf (stepIndex j) = readWord e.buf (stepIndex j) ∧
      readWord (mixSteps n e).out (stepIndex j) = readWord e.out (stepIndex j)) ∧
    (j < n → readWord (mixSteps n e).buf (stepIndex j) = readWord (mixSteps 256 e).buf (stepIndex j) ∧
      readWord (mixSteps n e).out (stepIndex j) = readWord (mixSteps 256 e).out (stepIndex j))

/-- R91: the prologue of a pass, and that `a`, the pool, the block and the cursor are not touched by it; the mix steps
start from what it leaves. -/
def Obligations.PassPrologue : Prop :=
  (∀ e : Engine, (prologue e).c = e.c + 1 ∧ (prologue e).b = e.b + (prologue e).c ∧
    prologue e = { e with b := (prologue e).b, c := (prologue e).c }) ∧
  (∀ e : Engine, shuffle e = { mixSteps 256 (prologue e) with cursor := 0 }) ∧
  (∀ e : Engine, e.c = 0xffffffffffffffff → (shuffle e).c = 0 ∧ (prologue e).b = e.b)

/-- R97: a pass sets the cursor to 0, as the effect after its 256 mix steps, and gives the same result whatever the cursor
was. -/
def Obligations.PassEpilogue : Prop :=
  ∀ (e : Engine) (k : Fin 257), shuffle e = { mixSteps 256 (prologue e) with cursor := 0 } ∧
    (shuffle e).cursor.val = 0 ∧ shuffle { e with cursor := k } = shuffle e

/-- R98: the pass is what the rule's equations say: they have a solution, and every solution ends in the engine that
`SHUFFLE` gives, all of it. -/
def Obligations.PassIsItsEquations : Prop :=
  ∀ e : Engine,
    (∃ P A B, PassTrace e P A B) ∧
    ∀ P A B, PassTrace e P A B →
      (shuffle e).buf = P 256 ∧ (shuffle e).a = A 256 ∧ (shuffle e).b = B 256 ∧ (shuffle e).c = e.c + 1 ∧
      (shuffle e).cursor.val = 0 ∧
      ∀ i, i < 256 → readWord (shuffle e).out (stepIndex i) = B (i + 1)

/-- R99: a pass is a function of `buf`, `a`, `b`, `c` alone: every word of the block is this pass's, the old block and the
cursor leave no trace, and the cursor is 0 after it. -/
def Obligations.PassIsPure : Prop :=
  (∀ e e' : Engine, e.buf = e'.buf → e.a = e'.a → e.b = e'.b → e.c = e'.c → shuffle e = shuffle e') ∧
  ∀ e : Engine, (shuffle e).cursor.val = 0

/-! ### Seeding -/

/-- R77: the command word with opcode 1 and operand `value` is `SEED value`; it fills the pool from the seed, clears the
accumulators, runs one pass, answers `(OK, 0)` and changes nothing else. -/
def Obligations.SeedAnswers : Prop :=
  ∀ (value : Word) (s : State), decode (commandWord 1 value) = .instr (.seed value) ∧ ∃ pool : Table,
    (∀ i : Index, readWord pool i = fmix (i.setWidth 64 + value)) ∧
    exec (.seed value) s = .next
      { engine := shuffle { s.engine with buf := pool, a := 0, b := 0, c := 0 }, inputs := s.inputs.tail,
        source := s.source, responses := s.responses ++ [.ok 0], draws := s.draws }

/-- R81, R80, R85: a `SEED_FROM` whose source has 2048 bytes loads them, unmixed, clears the accumulators, runs one pass,
answers `(OK, 0)`; the bytes from the 2049th on stay with the source. -/
def Obligations.SeedFromFullAnswers : Prop :=
  ∀ (s : State) (h : 2048 ≤ s.source.bytes.length), ∃ (d : Vector Byte 2048) (pool : Table),
    (∀ k : Fin 2048, d[k.val] = s.source.bytes[k.val]'(Nat.lt_of_lt_of_le k.isLt h)) ∧
    (∀ j : Fin 256, readWord pool (stepIndex j.val) = leWord d j) ∧
    exec .seedFrom s = .next
      { engine := shuffle { s.engine with buf := pool, a := 0, b := 0, c := 0 }, inputs := s.inputs.tail,
        source := { bytes := s.source.bytes.drop 2048, ending := s.source.ending },
        responses := s.responses ++ [.ok 0], draws := s.draws }

/-- R82, R121: a `SEED_FROM` whose source ends early answers `SHORT_READ` and leaves the engine as it was (decision D10); of
the source some bytes are gone, how many is open (D9; the free value's form is assumption log 7). -/
def Obligations.SeedFromShortAnswers : Prop :=
  ∀ s : State, s.source.bytes.length < 2048 → s.source.ending = .ended →
    ∃ k, k ≤ s.source.bytes.length ∧ exec .seedFrom s = .next
      { engine := s.engine, inputs := s.inputs.tail,
        source := { bytes := s.source.bytes.drop k, ending := .ended },
        responses := s.responses ++ [.shortRead], draws := s.draws + 1 }

/-- R83, R122 (decision D11): a `SEED_FROM` whose source fails answers `SOURCE_FAULT` with the source's word and leaves the
engine as it was (decision D10). Of the source's bytes the first `k` are gone, from none to all (D9; the free value's form
is assumption log 7); the free source that follows those left is the model's form of what the spec does not say
(assumption log 8). -/
def Obligations.SeedFromFaultAnswers : Prop :=
  ∀ (s : State) (info : Word), s.source.bytes.length < 2048 → s.source.ending = .failed info →
    ∃ k, k ≤ s.source.bytes.length ∧ exec .seedFrom s = .next
      { engine := s.engine, inputs := s.inputs.tail,
        source := { bytes := s.source.bytes.drop k ++ (Config.sourceAfterFault s.draws).bytes,
                    ending := (Config.sourceAfterFault s.draws).ending },
        responses := s.responses ++ [.sourceFault info], draws := s.draws + 1 }

/-- R84 (decision D27): a `SEED_FROM` whose source never answers does not complete: however long it runs, no state changes,
no response is given and no other input is taken. That waiting is a step to the same state is the model's choice
(assumption log 2). -/
def Obligations.SeedFromWaits : Prop := ∀ (s : State) (n : Nat), Waiting s → runs n s = .next s

/-- R86: a successful seeding leaves an engine that depends on the seed alone, the same as after `NEW` and that seeding. The
spec marks R86 as its own derivation. -/
def Obligations.SeedingForgetsThePast : Prop :=
  (∀ (value : Word) (s s' : State), ∃ t t' u v, exec (.seed value) s = .next t ∧ exec (.seed value) s' = .next t' ∧
    exec .new s = .next u ∧ exec (.seed value) u = .next v ∧ t.engine = t'.engine ∧ t.engine = v.engine) ∧
  (∀ s s' : State, 2048 ≤ s.source.bytes.length → 2048 ≤ s'.source.bytes.length →
    s.source.bytes.take 2048 = s'.source.bytes.take 2048 → ∃ t t' u v,
    exec .seedFrom s = .next t ∧ exec .seedFrom s' = .next t' ∧
    exec .new s = .next u ∧ exec .seedFrom u = .next v ∧ t.engine = t'.engine ∧ t.engine = v.engine)

/-- R78: after a successful seeding `c` is 1, the cursor 0, and `b` the last word of the block. The spec marks R78 as its own
derivation. -/
def Obligations.AfterSeeding : Prop :=
  (∀ (value : Word) (s : State), ∃ t, exec (.seed value) s = .next t ∧
    t.engine.c = 1 ∧ t.engine.cursor.val = 0 ∧ t.engine.b = readWord t.engine.out 255) ∧
  (∀ s : State, 2048 ≤ s.source.bytes.length → ∃ t, exec .seedFrom s = .next t ∧
    t.engine.c = 1 ∧ t.engine.cursor.val = 0 ∧ t.engine.b = readWord t.engine.out 255)

/-- R71, R81: seeding from 2048 zero bytes leaves the engine that one pass from reset leaves. The spec marks this as its own
derivation. -/
def Obligations.ZeroBytesAreUnseeded : Prop :=
  ∀ s : State, s.source.bytes.take 2048 = List.replicate 2048 0 →
    ∃ t, exec .seedFrom s = .next t ∧ t.engine = shuffle Engine.reset

/-! ### Extraction -/

/-- R110: opcode 3 is `NEXT_UINT64`, whatever `arg` is. With a word at hand it answers it and moves the cursor only; with
the block exhausted it first runs a pass and answers the first word of the new block. -/
def Obligations.NextUint64Answers : Prop :=
  ∀ (s : State) (arg : Word), decode (commandWord 3 arg) = .instr .nextUint64 ∧
    encode .nextUint64 = 0x30000000000000000 ∧
    (∀ h : s.engine.cursor.val < 256, exec .nextUint64 s = .next
      { engine := { s.engine with cursor := ⟨s.engine.cursor.val + 1, Nat.succ_lt_succ h⟩ }, inputs := s.inputs.tail,
        source := s.source, responses := s.responses ++ [.ok s.engine.out[s.engine.cursor.val]], draws := s.draws }) ∧
    (s.engine.cursor.val = 256 → exec .nextUint64 s = .next
      { engine := { shuffle s.engine with cursor := 1 }, inputs := s.inputs.tail, source := s.source,
        responses := s.responses ++ [.ok (shuffle s.engine).out[0]], draws := s.draws })

/-- R111: `NEXT_INT63` makes the state change of `NEXT_UINT64` and answers the word shifted right by one. -/
def Obligations.NextInt63Answers : Prop :=
  ∀ s : State,
    (∀ h : s.engine.cursor.val < 256, exec .nextInt63 s = .next
      { engine := { s.engine with cursor := ⟨s.engine.cursor.val + 1, Nat.succ_lt_succ h⟩ }, inputs := s.inputs.tail,
        source := s.source, responses := s.responses ++ [.ok (s.engine.out[s.engine.cursor.val] >>> 1)],
        draws := s.draws }) ∧
    (s.engine.cursor.val = 256 → exec .nextInt63 s = .next
      { engine := { shuffle s.engine with cursor := 1 }, inputs := s.inputs.tail, source := s.source,
        responses := s.responses ++ [.ok ((shuffle s.engine).out[0] >>> 1)], draws := s.draws })

/-- R111: opcode 4 is `NEXT_INT63`, whatever `arg` is. From any state the two extractions leave the same state but for the
data answered, which for `NEXT_INT63` is that of `NEXT_UINT64` shifted right by one: its bits 62:0 are bits 63:1 of the
word, its bit 63 is 0, and it is the same number read as signed. -/
def Obligations.Int63IsUint64Shifted : Prop :=
  ∀ (s : State) (arg : Word), decode (commandWord 4 arg) = .instr .nextInt63 ∧
    encode .nextInt63 = 0x40000000000000000 ∧ ∃ (t : State) (w d : Word),
    exec .nextUint64 s = .next { t with responses := s.responses ++ [.ok w] } ∧
    exec .nextInt63 s = .next { t with responses := s.responses ++ [.ok d] } ∧
    d = w >>> 1 ∧ d.toNat = w.toNat / 2 ∧ d.extractLsb' 0 63 = w.extractLsb' 1 63 ∧ d.getLsbD 63 = false ∧
    d.toInt = (d.toNat : Int)

/-- R114: the two extractions always answer `OK`. -/
def Obligations.ExtractionNeverFails : Prop :=
  ∀ s : State, (∃ t w, exec .nextUint64 s = .next t ∧ t.responses = s.responses ++ [.ok w]) ∧
    (∃ t w, exec .nextInt63 s = .next t ∧ t.responses = s.responses ++ [.ok w])

/-- R71: extraction from the unseeded engine is legal and behaves by the ordinary rules: the first one runs a pass over the
all-zero pool and answers the first word of its block. Words 0 and 12 of that block are those R71 gives, which the spec
marks as its own derivation. -/
def Obligations.UnseededExtraction : Prop :=
  (∀ s : State, s.engine = Engine.reset →
    (∃ t, exec .nextUint64 s = .next t ∧ t.engine = { shuffle Engine.reset with cursor := 1 } ∧
      t.responses = s.responses ++ [.ok (readWord (shuffle Engine.reset).out 0)]) ∧
    (∃ t, exec .nextInt63 s = .next t ∧ t.engine = { shuffle Engine.reset with cursor := 1 } ∧
      t.responses = s.responses ++ [.ok (readWord (shuffle Engine.reset).out 0 >>> 1)])) ∧
  readWord (shuffle Engine.reset).out 0 = 0 ∧
  readWord (shuffle Engine.reset).out 12 = 0xf800000000000000

/-- R112: the words returned after a seeding, which leaves the cursor at 0: word `n` is element `n mod 256` of the block of
pass number `n / 256 + 1` counted with the seeding's own; and the cursor before each. The spec marks R112 as its own
derivation. -/
def Obligations.StreamAfterSeeding : Prop :=
  ∀ (s : State) (cmds : List Instr), (∀ i ∈ cmds, isExtraction i = true) → s.engine.cursor.val = 0 →
    s.inputs = issue cmds → ∃ t, runs cmds.length s = .next t ∧ t.inputs = [] ∧
      t.responses = s.responses ++ cmds.mapIdx (streamAnswer 0 s.engine) ∧
      t.engine.cursor.val = cursorAfter 0 cmds.length

/-- R112, R71: the same from an engine whose block is exhausted, the unseeded one among them: the first extraction runs pass
number 1. The spec marks R112 as its own derivation. -/
def Obligations.StreamAfterExhaustion : Prop :=
  ∀ (s : State) (cmds : List Instr), (∀ i ∈ cmds, isExtraction i = true) → s.engine.cursor.val = 256 →
    s.inputs = issue cmds → ∃ t, runs cmds.length s = .next t ∧ t.inputs = [] ∧
      t.responses = s.responses ++ cmds.mapIdx (streamAnswer 1 s.engine) ∧
      t.engine.cursor.val = cursorAfter 256 cmds.length

/-- R113: the block boundary, for any mixture of the two extractions: the first 256 from a cursor at 0, where a seeding
leaves it, answer the block in order and change the cursor only; the 257th runs one pass from that state; words 256 to 511
are the block of that pass. -/
def Obligations.BlockBoundary : Prop :=
  ∀ (s : State) (first second : List Instr) (rest : List HostInput), (∀ i ∈ first ++ second, isExtraction i = true) →
    first.length = 256 → second.length = 256 → s.engine.cursor.val = 0 → s.inputs = issue (first ++ second) ++ rest →
    let boundary : Engine := { s.engine with cursor := 256 }
    (∃ t, runs 256 s = .next t ∧ t.engine = boundary ∧ t.responses = s.responses ++ blockAnswers s.engine.out first) ∧
    (∃ t, runs 257 s = .next t ∧ t.engine = { shuffle boundary with cursor := 1 }) ∧
    (∃ t, runs 512 s = .next t ∧ t.responses =
      s.responses ++ blockAnswers s.engine.out first ++ blockAnswers (shuffle boundary).out second)

/-- R101, R130: `c` counts the passes since the last seeding, `NEW` or reset: each pass adds 1; after a seeding and `t`
extractions it is `floor((t - 1) / 256) + 1` (1 for `t = 0`), the pass inside the seeding counted; after `NEW` or a reset
event and `t` extractions it is `t / 256` rounded up; all modulo `2^64`. The spec marks the counts as its own
derivations. -/
def Obligations.PassCounter : Prop :=
  (∀ (n : Nat) (e : Engine), (passes n e).c = e.c + BitVec.ofNat 64 n) ∧
  ∀ (s : State) (cmds : List Instr), (∀ i ∈ cmds, isExtraction i = true) →
    let countIs (k : Nat) : Prop := ∃ t, runs (cmds.length + 1) s = .next t ∧ t.engine.c = BitVec.ofNat 64 k
    (∀ value, s.inputs = issue (.seed value :: cmds) → countIs ((cmds.length - 1) / 256 + 1)) ∧
    (2048 ≤ s.source.bytes.length → s.inputs = issue (.seedFrom :: cmds) → countIs ((cmds.length - 1) / 256 + 1)) ∧
    (s.inputs = issue (.new :: cmds) → countIs ((cmds.length + 255) / 256)) ∧
    (s.inputs = .reset :: issue cmds → countIs ((cmds.length + 255) / 256))

/-! ### Errors and whole-machine rules -/

/-- R55, R123 (decision D4): a reserved command word is answered `ILLEGAL_CMD` and changes nothing. -/
def Obligations.ReservedAnswered : Prop :=
  ∀ (s : State) (w : CommandWord) (rest : List HostInput), s.inputs = .command w :: rest →
    5 ≤ (w.extractLsb' 64 3).toNat →
    step s = .next { s with inputs := rest, responses := s.responses ++ [.illegalCmd] }

/-- R124: a step that answers with an error writes no state of the engine; the response carries the error's status code and
data; the next input is due as after an `OK`. -/
def Obligations.ErrorsWriteNoState : Prop :=
  ∀ (s t : State) (r : Response), step s = .next t → t.responses = s.responses ++ [r] → (∀ d, r ≠ .ok d) →
    t.engine = s.engine ∧ t.inputs = s.inputs.tail ∧
    ((r.status = 1 ∧ r.data = 0) ∨ (r.status = 2 ∧ s.source.ending = .failed r.data) ∨ (r.status = 3 ∧ r.data = 0))

/-- R120: the complete list of error conditions, each with its cause and its recorded value (decisions D4, D11). -/
def Obligations.ErrorConditions : Prop :=
  ∀ (s t : State) (r : Response), step s = .next t → t.responses = s.responses ++ [r] →
    (r = .shortRead ↔ NextCommand .seedFrom s ∧ s.source.bytes.length < 2048 ∧ s.source.ending = .ended) ∧
    (∀ info, r = .sourceFault info ↔
      NextCommand .seedFrom s ∧ s.source.bytes.length < 2048 ∧ s.source.ending = .failed info) ∧
    (r = .illegalCmd ↔ NextReserved s)

/-- R39, R56 (decisions D6, D19): a command that does not wait takes one step and is answered with exactly one response. -/
def Obligations.OneResponsePerCommand : Prop :=
  ∀ (s : State) (w : CommandWord) (rest : List HostInput), s.inputs = .command w :: rest → ¬ Waiting s →
    ∃ t r, step s = .next t ∧ t.inputs = rest ∧ t.responses = s.responses ++ [r]

/-- R5, R120: no operation of the engine faults and none is refused, so every step answers. Where the spec gives no step
the answer is the model's choice: a `SEED_FROM` that waits (R84; assumption log 2) and an engine without a command (R7;
assumption log 3) step to the same state. A reserved word is answered (decision D4), where U1 would allow a refusal too
(assumption log 9). -/
def Obligations.StepAlwaysAnswers : Prop := ∀ s : State, ∃ t, step s = .next t

/-- R149: commands that need no byte source terminate: as many steps as the host has inputs take all of them, and each
command has its response. The spec marks R149 as its own derivation. -/
def Obligations.CommandsTerminate : Prop :=
  ∀ s : State, (∀ h ∈ s.inputs, needsNoSource h = true) →
    ∃ t rs, runs s.inputs.length s = .next t ∧ t.inputs = [] ∧ t.responses = s.responses ++ rs ∧
      rs.length = s.inputs.countP isCommand

/-- R43, R90, R12: everything a step can do to the engine; in particular a pass runs in three situations only, and nothing
but a pass or a clearing writes the block. R43 is marked as the spec's own derivation. -/
def Obligations.EngineWriters : Prop :=
  ∀ s t : State, step s = .next t →
    t.engine = s.engine ∨
    ((NextCommand .new s ∨ s.inputs.head? = some .reset) ∧ t.engine = Engine.reset) ∨
    (∃ value, NextCommand (.seed value) s ∧
      t.engine = shuffle { s.engine with buf := poolFill value, a := 0, b := 0, c := 0 }) ∨
    (∃ d, NextCommand .seedFrom s ∧ srcRead s.source = .full d ∧
      t.engine = shuffle { s.engine with buf := loadPool d, a := 0, b := 0, c := 0 }) ∨
    ((NextCommand .nextUint64 s ∨ NextCommand .nextInt63 s) ∧ s.engine.cursor.val < 256 ∧
      t.engine = { s.engine with cursor := s.engine.cursor + 1 }) ∨
    ((NextCommand .nextUint64 s ∨ NextCommand .nextInt63 s) ∧ s.engine.cursor.val = 256 ∧
      t.engine = { shuffle s.engine with cursor := 1 })

/-- R25 (decision D18): what a step answers shows of the engine the next word of the stream alone, which is the first of a
new block where the old one is exhausted; of that word `NEXT_INT63` shows the upper 63 bits only; and what is no extraction
shows nothing of the engine. -/
def Obligations.OnlyTheNextWordShows : Prop :=
  ∀ s s' t t' : State, s.inputs = s'.inputs → s.source = s'.source → s.responses = s'.responses →
    step s = .next t → step s' = .next t' →
    ((extract s.engine).1 = (extract s'.engine).1 → t.responses = t'.responses) ∧
    (NextCommand .nextInt63 s → (extract s.engine).1 >>> 1 = (extract s'.engine).1 >>> 1 → t.responses = t'.responses) ∧
    (¬ NextCommand .nextUint64 s → ¬ NextCommand .nextInt63 s → t.responses = t'.responses)

/-- R14, R78: every step of the machine keeps `b` equal to the last word of the block. The spec marks the equality after a
pass as its own derivation. -/
def Obligations.LastWordKept : Prop := ∀ s t : State, LastWordIsB s.engine → step s = .next t → LastWordIsB t.engine

/-- R23: at reset `b` and the last word of the block are both 0. -/
def Obligations.LastWordAtReset : Prop := LastWordIsB State.reset.engine
end

