-- ==== Sys2Proof/Laws/State.lean ====
section
/-! SUPPORT. The small lemmas of the state's updates: one per field per update, each true by `rfl`. -/

namespace Sys2Proof.Machine

/-! ### `complete` (R6, R56) -/

@[simp] theorem complete_engine (e : Engine) (r : Response) (s : State) : (complete e r s).engine = e := rfl
@[simp] theorem complete_inputs (e : Engine) (r : Response) (s : State) : (complete e r s).inputs =
    s.inputs.tail := rfl
@[simp] theorem complete_source (e : Engine) (r : Response) (s : State) : (complete e r s).source = s.source := rfl
@[simp] theorem complete_responses (e : Engine) (r : Response) (s : State) : (complete e r s).responses =
    s.responses ++ [r] := rfl
@[simp] theorem complete_draws (e : Engine) (r : Response) (s : State) : (complete e r s).draws = s.draws := rfl

/-! ### `raise` (R124) -/

@[simp] theorem raise_engine (err : ErrorCondition) (s : State) : (raise err s).engine = s.engine := rfl
@[simp] theorem raise_inputs (err : ErrorCondition) (s : State) : (raise err s).inputs = s.inputs.tail := rfl
@[simp] theorem raise_source (err : ErrorCondition) (s : State) : (raise err s).source = s.source := rfl
@[simp] theorem raise_responses (err : ErrorCondition) (s : State) : (raise err s).responses =
    s.responses ++ [errorResponse err] := rfl
@[simp] theorem raise_draws (err : ErrorCondition) (s : State) : (raise err s).draws = s.draws := rfl

/-! ### `takeSeedBytes` (R80) -/

@[simp] theorem takeSeedBytes_engine (s : State) : (takeSeedBytes s).engine = s.engine := rfl
@[simp] theorem takeSeedBytes_inputs (s : State) : (takeSeedBytes s).inputs = s.inputs := rfl
@[simp] theorem takeSeedBytes_source (s : State) : (takeSeedBytes s).source = sourceAfterFullRead s.source := rfl
@[simp] theorem takeSeedBytes_responses (s : State) : (takeSeedBytes s).responses = s.responses := rfl
@[simp] theorem takeSeedBytes_draws (s : State) : (takeSeedBytes s).draws = s.draws := rfl

/-! ### `loseBytes` (D9) -/

@[simp] theorem loseBytes_engine (s : State) : (loseBytes s).engine = s.engine := rfl
@[simp] theorem loseBytes_inputs (s : State) : (loseBytes s).inputs = s.inputs := rfl
@[simp] theorem loseBytes_source (s : State) : (loseBytes s).source = sourceAfterFailedRead s.source s.draws := rfl
@[simp] theorem loseBytes_responses (s : State) : (loseBytes s).responses = s.responses := rfl
@[simp] theorem loseBytes_draws (s : State) : (loseBytes s).draws = s.draws + 1 := rfl

/-! ### `hostReset` (R140) -/

@[simp] theorem hostReset_engine (s : State) : (hostReset s).engine = Engine.reset := rfl
@[simp] theorem hostReset_inputs (s : State) : (hostReset s).inputs = s.inputs.tail := rfl
@[simp] theorem hostReset_source (s : State) : (hostReset s).source = s.source := rfl
@[simp] theorem hostReset_responses (s : State) : (hostReset s).responses = s.responses := rfl
@[simp] theorem hostReset_draws (s : State) : (hostReset s).draws = s.draws := rfl

/-! ### `hostSupply` (R150) -/

@[simp] theorem hostSupply_engine (src : ByteSource) (s : State) : (hostSupply src s).engine = s.engine := rfl
@[simp] theorem hostSupply_inputs (src : ByteSource) (s : State) : (hostSupply src s).inputs = s.inputs.tail := rfl
@[simp] theorem hostSupply_source (src : ByteSource) (s : State) : (hostSupply src s).source = src := rfl
@[simp] theorem hostSupply_responses (src : ByteSource) (s : State) : (hostSupply src s).responses =
    s.responses := rfl
@[simp] theorem hostSupply_draws (src : ByteSource) (s : State) : (hostSupply src s).draws = s.draws := rfl

/-! ### `reservedCommand` (R123) -/

@[simp] theorem reservedCommand_engine (s : State) : (reservedCommand s).engine = s.engine := rfl
@[simp] theorem reservedCommand_inputs (s : State) : (reservedCommand s).inputs = s.inputs.tail := rfl
@[simp] theorem reservedCommand_source (s : State) : (reservedCommand s).source = s.source := rfl
@[simp] theorem reservedCommand_responses (s : State) : (reservedCommand s).responses =
    s.responses ++ [.illegalCmd] := rfl
@[simp] theorem reservedCommand_draws (s : State) : (reservedCommand s).draws = s.draws := rfl

/-! ### `State.withFetchWord` -/

@[simp] theorem withFetchWord_engine (s : State) (n w : Nat) : (s.withFetchWord n w).engine = s.engine := rfl
@[simp] theorem withFetchWord_inputs (s : State) (n w : Nat) : (s.withFetchWord n w).inputs =
    .command (BitVec.ofNat 67 w) :: s.inputs := rfl
@[simp] theorem withFetchWord_source (s : State) (n w : Nat) : (s.withFetchWord n w).source = s.source := rfl
@[simp] theorem withFetchWord_responses (s : State) (n w : Nat) : (s.withFetchWord n w).responses = s.responses := rfl
@[simp] theorem withFetchWord_draws (s : State) (n w : Nat) : (s.withFetchWord n w).draws = s.draws := rfl

/-! ### `prologue` (R91) -/

@[simp] theorem prologue_buf (e : Engine) : (prologue e).buf = e.buf := rfl
@[simp] theorem prologue_out (e : Engine) : (prologue e).out = e.out := rfl
@[simp] theorem prologue_a (e : Engine) : (prologue e).a = e.a := rfl
@[simp] theorem prologue_b (e : Engine) : (prologue e).b = e.b + (e.c + 1) := rfl
@[simp] theorem prologue_c (e : Engine) : (prologue e).c = e.c + 1 := rfl
@[simp] theorem prologue_cursor (e : Engine) : (prologue e).cursor = e.cursor := rfl

/-! ### `mixStep` (R94) -/

theorem mixStep_buf (i : Index) (e : Engine) : (mixStep i e).buf =
    writeWord e.buf i (readWord e.buf (firstLookup (readWord e.buf i)) + (mixStep i e).a + e.b) := rfl
theorem mixStep_out (i : Index) (e : Engine) : (mixStep i e).out = writeWord e.out i (mixStep i e).b := rfl
theorem mixStep_a (i : Index) (e : Engine) : (mixStep i e).a =
    amix (groupPosition i) e.a + readWord e.buf (partnerIndex i) := rfl
theorem mixStep_b (i : Index) (e : Engine) : (mixStep i e).b =
    readWord (mixStep i e).buf (secondLookup (readWord e.buf (firstLookup (readWord e.buf i)) + (mixStep i e).a + e.b)) + readWord e.buf i := rfl
@[simp] theorem mixStep_c (i : Index) (e : Engine) : (mixStep i e).c = e.c := rfl
@[simp] theorem mixStep_cursor (i : Index) (e : Engine) : (mixStep i e).cursor = e.cursor := rfl

/-! ### `shuffle` (R98); its `c` stands in Laws/Ops.lean -/

theorem shuffle_eq (e : Engine) : shuffle e = { mixSteps Config.poolWords (prologue e) with cursor := 0 } := by
  unfold shuffle
  with_reducible rfl

theorem shuffle_buf (e : Engine) : (shuffle e).buf = (mixSteps Config.poolWords (prologue e)).buf := by rw [shuffle_eq]
theorem shuffle_out (e : Engine) : (shuffle e).out = (mixSteps Config.poolWords (prologue e)).out := by rw [shuffle_eq]
theorem shuffle_a (e : Engine) : (shuffle e).a = (mixSteps Config.poolWords (prologue e)).a := by rw [shuffle_eq]
theorem shuffle_b (e : Engine) : (shuffle e).b = (mixSteps Config.poolWords (prologue e)).b := by rw [shuffle_eq]
@[simp] theorem shuffle_cursor (e : Engine) : (shuffle e).cursor = 0 := by rw [shuffle_eq]

/-! ### `Engine.reset` (R23) -/

@[simp] theorem reset_buf : Engine.reset.buf = Vector.replicate 256 0 := rfl
@[simp] theorem reset_out : Engine.reset.out = Vector.replicate 256 0 := rfl
@[simp] theorem reset_a : Engine.reset.a = 0 := rfl
@[simp] theorem reset_b : Engine.reset.b = 0 := rfl
@[simp] theorem reset_c : Engine.reset.c = 0 := rfl
@[simp] theorem reset_cursor : Engine.reset.cursor = 256 := rfl

end Sys2Proof.Machine
end

