-- ==== Sys2Proof/Laws/Ops.lean ====
section
/-! SUPPORT. What each shared operation can do, said once: words of the tables, mix steps, extraction, the request to the
byte source, the fields of a command word. -/

namespace Sys2Proof.Machine

/-! ### Words of a table (R35, R37) -/

@[simp] theorem readWord_writeWord_same (v : Table) (i : Index) (x : Word) : readWord (writeWord v i x) i = x := by
  simp [readWord, writeWord]

theorem readWord_writeWord_ne (v : Table) (i j : Index) (x : Word) (h : j ≠ i) :
    readWord (writeWord v i x) j = readWord v j := by
  have hne : i.toNat ≠ j.toNat := fun hv => h (BitVec.eq_of_toNat_eq hv.symm)
  simp [readWord, writeWord, hne]

/-- Two tables are equal when every word is: a table has no other content (R17, R37). -/
theorem table_ext (v w : Table) (h : ∀ i : Index, readWord v i = readWord w i) : v = w := by
  apply Vector.ext
  intro n hn
  have := h (BitVec.ofNat 8 n)
  simpa [readWord, Nat.mod_eq_of_lt hn] using this

theorem stepIndex_toNat (n : Nat) (h : n < 256) : (stepIndex n).toNat = n := by
  simp [stepIndex, Nat.mod_eq_of_lt h]

theorem stepIndex_of_toNat (i : Index) : stepIndex i.toNat = i := by simp [stepIndex]

theorem stepIndex_ne (m n : Nat) (hm : m < 256) (hn : n < 256) (h : m ≠ n) : stepIndex m ≠ stepIndex n := fun he =>
  h (by have := congrArg BitVec.toNat he; rwa [stepIndex_toNat m hm, stepIndex_toNat n hn] at this)

/-! ### Mix steps (R92, R94) -/

@[simp] theorem mixSteps_zero (e : Engine) : mixSteps 0 e = e := rfl

theorem mixSteps_succ (n : Nat) (e : Engine) : mixSteps (n + 1) e = mixStep (stepIndex n) (mixSteps n e) := rfl

/-- Mix steps do not write `c`. -/
@[simp] theorem mixSteps_c (n : Nat) (e : Engine) : (mixSteps n e).c = e.c := by
  induction n with
  | zero => rw [mixSteps_zero]
  | succ n ih => rw [mixSteps_succ, mixStep_c, ih]

/-- Mix steps do not write the cursor. -/
@[simp] theorem mixSteps_cursor (n : Nat) (e : Engine) : (mixSteps n e).cursor = e.cursor := by
  induction n with
  | zero => rw [mixSteps_zero]
  | succ n ih => rw [mixSteps_succ, mixStep_cursor, ih]

@[simp] theorem shuffle_c (e : Engine) : (shuffle e).c = e.c + 1 := by
  rw [shuffle_eq, mixSteps_c, prologue_c]

/-! ### Extraction (R110) -/

theorem exhausted_iff (e : Engine) : exhausted e = true ↔ e.cursor = 256 := by simp [exhausted]

/-- One extraction with a word at hand: that word, and only the cursor moves. -/
theorem extract_buffered (e : Engine) (h : e.cursor.val < 256) :
    extract e = (e.out[e.cursor.val], { e with cursor := ⟨e.cursor.val + 1, Nat.succ_lt_succ h⟩ }) := by
  have hne : exhausted e = false := by
    rw [← Bool.not_eq_true, exhausted_iff]
    intro he
    rw [he] at h
    exact absurd h (by decide)
  have hr : refill e = e := by simp [refill, hne]
  simp [extract, takeWord, hr]

/-- One extraction from an exhausted block: a pass, then its first word. -/
theorem extract_exhausted (e : Engine) (h : e.cursor = 256) :
    extract e = ((shuffle e).out[0], { shuffle e with cursor := 1 }) := by
  have hr : refill e = shuffle e := by simp [refill, (exhausted_iff e).mpr h]
  simp [extract, takeWord, hr]

/-! ### Runs (R8) -/

@[simp] theorem runs_zero (s : State) : runs 0 s = .next s := rfl

/-- A run goes on from where its first step leads. -/
theorem runs_succ (n : Nat) (s t : State) (h : step s = .next t) : runs (n + 1) s = runs n t := by
  have hc : Sys2Proof.core.step s = .next t := h
  show Host.Core.run Sys2Proof.core (n + 1) s = Host.Core.run Sys2Proof.core n t
  simp only [Host.Core.run, hc]

/-! ### The request to the byte source (R57) -/

theorem srcRead_full (src : ByteSource) (h : Config.seedBytes ≤ src.bytes.length) :
    srcRead src = .full (seedBlock src h) := dif_pos h

theorem srcRead_short (src : ByteSource) (h : ¬ Config.seedBytes ≤ src.bytes.length) (he : src.ending = .ended) :
    srcRead src = .short ⟨src.bytes.length, Nat.lt_of_not_le h⟩ := by
  simp only [srcRead, dif_neg h, he]

theorem srcRead_fault (src : ByteSource) (info : Word) (h : ¬ Config.seedBytes ≤ src.bytes.length)
    (he : src.ending = .failed info) : srcRead src = .fault ⟨src.bytes.length, Nat.lt_of_not_le h⟩ info := by
  simp only [srcRead, dif_neg h, he]

theorem srcRead_never (src : ByteSource) (h : ¬ Config.seedBytes ≤ src.bytes.length) (he : src.ending = .silent) :
    srcRead src = .never := by
  simp only [srcRead, dif_neg h, he]

/-! ### The fields of a command word (R51) -/

/-- A bit of a command word, by the field it lies in. -/
theorem commandWord_getLsbD (op : BitVec 3) (arg : Word) (i : Nat) :
    (commandWord op arg).getLsbD i = if i < 64 then arg.getLsbD i else op.getLsbD (i - 64) :=
  BitVec.getLsbD_append

@[simp] theorem opField_commandWord (op : BitVec 3) (arg : Word) : opField (commandWord op arg) = op := by
  apply BitVec.eq_of_getLsbD_eq
  intro i hi
  simp [opField, commandWord_getLsbD, hi]

@[simp] theorem argField_commandWord (op : BitVec 3) (arg : Word) : argField (commandWord op arg) = arg := by
  apply BitVec.eq_of_getLsbD_eq
  intro i hi
  simp [argField, commandWord_getLsbD, hi]

/-- Decoding a word given by its fields. -/
theorem decode_commandWord (op : BitVec 3) (arg : Word) :
    decode (commandWord op arg) =
      if op = 0 then .instr .new
      else if op = 1 then .instr (.seed arg)
      else if op = 2 then .instr .seedFrom
      else if op = 3 then .instr .nextUint64
      else if op = 4 then .instr .nextInt63
      else .reserved op := by
  have hop : ∀ o : BitVec 3, o = 0 ∨ o = 1 ∨ o = 2 ∨ o = 3 ∨ o = 4 ∨ o = 5 ∨ o = 6 ∨ o = 7 := by decide
  simp only [decode, opField_commandWord, argField_commandWord]
  rcases hop op with rfl | rfl | rfl | rfl | rfl | rfl | rfl | rfl <;> rfl

/-- A command word is its two fields. -/
theorem commandWord_fields (w : CommandWord) : commandWord (opField w) (argField w) = w := by
  apply BitVec.eq_of_getLsbD_eq
  intro i hi
  rw [commandWord_getLsbD]
  split
  · next h => simp [argField, h]
  · next h =>
    have hop : i - 64 < 3 := by omega
    simp [opField, hop, Nat.add_sub_cancel' (Nat.le_of_not_lt h)]

end Sys2Proof.Machine
end

