-- ==== Sys2Proof/Laws/PerInstr.lean ====
section
/-! SUPPORT. Facts about every instruction as syntax, one lemma per constructor.

The family `TableRow`: the encoding of an instruction, under the mask of spec/opcode_table.json, is the match value of
its row (R52). -/

namespace Sys2Proof.Laws

/-- The mask of every row of the table: the three opcode bits. -/
def tableMask : CommandWord := 0x70000000000000000

/-- The match value of an instruction's row. -/
def tableMatch : Instr → CommandWord
  | .new => 0x00000000000000000
  | .seed _ => 0x10000000000000000
  | .seedFrom => 0x20000000000000000
  | .nextUint64 => 0x30000000000000000
  | .nextInt63 => 0x40000000000000000

/-- An instruction's encoding lies in its row of the table. -/
def TableRow.Statement (i : Instr) : Prop := encode i &&& tableMask = tableMatch i

theorem TableRow.new : TableRow.Statement .new := by unfold TableRow.Statement; decide

theorem TableRow.seed (value : Word) : TableRow.Statement (.seed value) := by
  have hm : tableMask = (7#3 ++ 0#64 : BitVec (3 + 64)) := by decide
  have hr : tableMatch (.seed value) = (1#3 ++ 0#64 : BitVec (3 + 64)) := by simp [tableMatch]
  have hv : (1#3 ++ value) &&& (7#3 ++ 0#64) = (1#3 ++ 0#64 : BitVec (3 + 64)) := by
    rw [BitVec.and_append, BitVec.and_zero]
    rfl
  unfold TableRow.Statement
  rw [hm, hr]
  exact hv

theorem TableRow.seedFrom : TableRow.Statement .seedFrom := by unfold TableRow.Statement; decide

theorem TableRow.nextUint64 : TableRow.Statement .nextUint64 := by unfold TableRow.Statement; decide

theorem TableRow.nextInt63 : TableRow.Statement .nextInt63 := by unfold TableRow.Statement; decide

end Sys2Proof.Laws
end

