-- ==== Sys2Proof/Tests/Slice0.lean ====
section
/-! SUPPORT. Tests against the spec's own vectors (95_test_vectors.md) and worked examples, a smoke test of every
well-formedness check, and for every statement with hypotheses a witness that they can be met. Expected values come from
spec/, named at each test; `decide +kernel` only has the kernel evaluate what `decide` states. -/

namespace Sys2Proof.Tests

open Sys2Proof.Machine

/-! ### Helpers -/

/-- The state after one step, if there is one. -/
def after (s : State) : Option State :=
  match step s with
  | .next t => some t
  | .fault _ => none
  | .refused _ => none

/-- A state with the given engine, inputs and byte source, and nothing answered yet. -/
def stateOf (e : Engine) (inputs : List HostInput) (src : ByteSource) : State :=
  { State.reset with engine := e, inputs := inputs, source := src }

/-- A source that has ended with nothing to give. -/
def noSource : ByteSource := { bytes := [], ending := .ended }

/-- 2048 zero bytes, then silence. -/
def zeroSource : ByteSource := { bytes := List.replicate 2048 0, ending := .silent }

/-- The ramp of V8 (a): `d[k] = k mod 256`. -/
def ramp : List Byte := (List.range 2048).map (BitVec.ofNat 8)

/-- An engine with given accumulators and a pool that is zero but for the listed words. -/
def engineOf (a b : Word) (pool : List (Index × Word)) : Engine :=
  { Engine.reset with a := a, b := b, buf := pool.foldl (fun v p => writeWord v p.1 p.2) Engine.reset.buf }

/-- An engine with one block word set and the cursor on it. -/
def blockOf (i : Index) (w : Word) (cursor : Fin 257) : Engine :=
  { Engine.reset with out := writeWord Engine.reset.out i w, cursor := cursor }

/-! ### Well-formedness (R57, R59): each check refuses an ill-formed term -/

theorem test_wf_seed_below : (Line.seed (-(2 ^ 63) - 1)).wf = false := by decide
theorem test_wf_seed_above : (Line.seed (2 ^ 64)).wf = false := by decide
theorem test_wf_full_one_byte : (Line.seedFrom (.full [0])).wf = false := by decide
theorem test_wf_short_2048 : (Line.seedFrom (.short 2048)).wf = false := by decide
theorem test_wf_fault_2048 : (Line.seedFrom (.fault 2048 5)).wf = false := by decide
theorem test_wf_accepts : (Line.seed (-(2 ^ 63))).wf = true ∧ (Line.seed (2 ^ 64 - 1)).wf = true ∧
    (Line.seedFrom (.short 2047)).wf = true ∧ (Line.seedFrom (.fault 0 5)).wf = true := by decide

/-! ### Decoding: words written out from rule R52 and vector V11 -/

theorem test_decode_new : decode 0x0ffffffffffffffff = .instr .new := by decide
theorem test_decode_seed : decode 0x1000000000000002a = .instr (.seed 0x2a) := by decide
theorem test_decode_seed_minus_one : decode 0x1ffffffffffffffff = .instr (.seed 0xffffffffffffffff) := by decide
theorem test_decode_seed_from : decode 0x20000000000000000 = .instr .seedFrom := by decide
theorem test_decode_next_uint64 : decode 0x3deadbeef00000001 = .instr .nextUint64 := by decide
theorem test_decode_next_int63 : decode 0x40000000000000000 = .instr .nextInt63 := by decide
theorem test_decode_reserved : decode 0x50000000000000000 = .reserved 5 ∧
    decode 0x6123456789abcdef0 = .reserved 6 ∧ decode 0x7ffffffffffffffff = .reserved 7 := by decide
theorem test_table_word : decodeTableWord 72 0x40000000000000000 = some .nextInt63 ∧
    decodeTableWord 72 0x50000000000000000 = none ∧ decodeTableWord 72 0x80000000000000000 = none := by decide

/-- R59, V11: the line `SEED -1`. -/
theorem test_assemble_seed : assemble (.seed (-1)) = [.command 0x1ffffffffffffffff] := by decide

/-- V11: response words. -/
theorem test_response_words : (Response.ok 0x4b73dab7cd5c5cdd).word = 0x04b73dab7cd5c5cdd ∧
    Response.shortRead.word = 0x10000000000000000 ∧ (Response.sourceFault 5).word = 0x20000000000000005 ∧
    Response.illegalCmd.word = 0x30000000000000000 := by decide

/-! ### Operand forms and word functions -/

/-- Table T1. -/
theorem test_fmix : fmix 1 = 0x5692161d100b05e5 ∧ fmix 0xffffffffffffffff = 0xb4d055fcf2cbbd7b ∧
    fmix 0x8000000000000000 = 0x25c26ea579cea98a := by decide

/-- Table T2: shifts lose or zero-fill, they do not rotate or sign-fill. -/
theorem test_amix : amix 0 0x8000000000000000 = 0x7fffffffffffffff ∧ amix 1 0x8000000000000000 = 0x8400000000000000 ∧
    amix 2 0x8000000000000000 = 0x8000000000000000 ∧ amix 3 0x8000000000000000 = 0x8000000040000000 := by decide

/-- R32: bytes `00 01 02 ...` give `0x0706050403020100`. -/
theorem test_le_word : leWord (seedBlock { bytes := ramp, ending := .ended } (by decide +kernel)) 0 =
    0x0706050403020100 := by decide +kernel

/-- R33: `0x4b73dab7cd5c5cdd` is emitted as `dd 5c 5c cd b7 da 73 4b`. -/
theorem test_output_bytes : (outputBytes 0x4b73dab7cd5c5cdd).toList =
    [0xdd, 0x5c, 0x5c, 0xcd, 0xb7, 0xda, 0x73, 0x4b] := by decide +kernel

/-- What a mix step writes: `a`, `buf[i]`, `b`, `out[i]`. -/
def mixed (i : Index) (e : Engine) : List Word :=
  [(mixStep i e).a, readWord (mixStep i e).buf i, (mixStep i e).b, readWord (mixStep i e).out i]

/-- Table T4, case A: the first lookup hits the word about to be written. -/
theorem test_mix_first_hits : mixed 5 (engineOf 0 0x100 [(5, 0x28), (133, 0x10)]) = [0x10, 0x138, 0x28, 0x28] := by
  decide +kernel

/-- Table T4, case B: the second lookup hits the word just written. -/
theorem test_mix_second_hits : mixed 1 (engineOf 0 0x800 []) = [0, 0x800, 0x800, 0x800] := by decide +kernel

/-- Table T4, case E: every sum wraps. -/
theorem test_mix_wraps :
    mixed 0 (engineOf 0xffffffffffffffff 0xffffffffffffffff [(0, 0xffffffffffffffff), (128, 0xffffffffffffffff)]) =
      [0xffffffffffdfffff, 0xffffffffffdffffe, 0xffffffffffffffff, 0xffffffffffffffff] := by decide +kernel

/-- Table T4, case F: the partner index wraps. -/
theorem test_mix_partner_wraps : mixed 200 (engineOf 1 2 [(72, 7), (200, 0x7fd), (255, 3)]) =
    [0xffffffffffe00005, 0xffffffffffe0000a, 0x7fd, 0x7fd] := by decide +kernel

/-! ### One step of each command -/

/-- R70: `NEW` after use: the block and the cursor are those of reset, one `OK` is answered. -/
theorem test_new : (after (stateOf (blockOf 3 7 9) [.command 0] noSource)).map
    (fun t => (readWord t.engine.out 3, t.engine.cursor, t.responses)) = some (0, 256, [.ok 0]) := by decide +kernel

/-- V3: `SEED 0` leaves `out[0] = 0x4b73dab7cd5c5cdd`, `c = 1`, `cursor = 0`. -/
theorem test_seed_zero : (after (stateOf Engine.reset [.command 0x10000000000000000] noSource)).map
    (fun t => (readWord t.engine.out 0, t.engine.c, t.engine.cursor)) = some (0x4b73dab7cd5c5cdd, 1, 0) := by
  decide +kernel

/-- V5: `SEED 1` gives the first word `0x6e184781aeb0736f`. -/
theorem test_seed_one : (after (stateOf Engine.reset [.command 0x10000000000000001] noSource)).map
    (fun t => readWord t.engine.out 0) = some 0x6e184781aeb0736f := by decide +kernel

/-- V8 (a): `SEED_FROM` with the ramp leaves `out[1] = 0x363432302e2c2a28`; bytes beyond 2048 stay with the source. -/
theorem test_seed_from_full :
    (after (stateOf Engine.reset [.command 0x20000000000000000] { bytes := ramp ++ [1, 2], ending := .silent })).map
      (fun t => (readWord t.engine.out 1, t.responses, t.source)) =
      some (0x363432302e2c2a28, [.ok 0], { bytes := [1, 2], ending := .silent }) := by decide +kernel

/-- V10: a failed `SEED_FROM` answers its error and leaves the block and the cursor. -/
theorem test_seed_from_fault :
    (after (stateOf (blockOf 1 8 1) [.command 0x20000000000000000] { bytes := [1], ending := .failed 5 })).map
      (fun t => (readWord t.engine.out 1, t.engine.cursor, t.responses.map Response.word)) =
      some (8, 1, [0x20000000000000005]) := by decide +kernel

/-- R110: with the cursor at 255 the last word is answered and no pass runs. -/
theorem test_next_uint64_last : (after (stateOf (blockOf 255 7 255) [.command 0x30000000000000000] noSource)).map
    (fun t => (t.engine.cursor, t.engine.c, t.responses)) = some (256, 0, [.ok 7]) := by decide +kernel

/-- P2: the first `NEXT_UINT64` without seeding answers 0 and leaves `c = 1`, `cursor = 1`. -/
theorem test_next_uint64_unseeded : (after (stateOf Engine.reset [.command 0x30000000000000000] noSource)).map
    (fun t => (t.engine.cursor, t.engine.c, t.responses)) = some (1, 1, [.ok 0]) := by decide +kernel

/-- V9: a word with bit 63 set is shifted logically. -/
theorem test_next_int63 :
    (after (stateOf (blockOf 4 0xc1c5482e8b47ba48 4) [.command 0x40000000000000000] noSource)).map
      (fun t => (t.engine.cursor, t.responses)) = some (5, [.ok 0x60e2a41745a3dd24]) := by decide +kernel

/-- P4, line 6: a reserved word. -/
theorem test_reserved : (after (stateOf (blockOf 1 8 1) [.command 0x50000000000000000] noSource)).map
    (fun t => (t.engine.cursor, t.inputs, t.responses)) = some (1, [], [.illegalCmd]) := by decide +kernel

/-! ### Witnesses: the hypotheses of each statement can be met -/

/-- A state whose host issues one command. -/
def oneCommand (i : Instr) (e : Engine) (src : ByteSource) : State := stateOf e [.command (encode i)] src

theorem witness_DecodeEncodeAgree : decode 0x1000000000000002a = .instr (.seed 42) ∧
    decode 0x3deadbeef00000001 = .instr .nextUint64 ∧ (∀ v, Instr.nextUint64 ≠ .seed v) ∧
    5 ≤ (opField 0x50000000000000000).toNat ∧ decode 0x7ffffffffffffffff = .reserved 7 :=
  ⟨by decide, by decide, fun _ h => Instr.noConfusion h, by decide, by decide⟩

theorem witness_ArgIgnored : (0 : BitVec 3) ≠ 1 ∧ (7 : BitVec 3) ≠ 1 := by decide

theorem witness_SeedOperand : (Line.seed (-(2 ^ 63))).wf = true ∧ (Line.seed (2 ^ 64 - 1)).wf = true := by decide

theorem witness_SeedFromLine : (OutcomeText.full (List.replicate 2048 0)).wf = true ∧
    (OutcomeText.short 2047).wf = true := by decide +kernel

theorem witness_HostResetIsNew : (stateOf (blockOf 1 8 1) [.reset] noSource).inputs = .reset :: [] := rfl

theorem witness_IdleChangesNothing : (stateOf (blockOf 1 8 1) [] noSource).inputs = [] := rfl

theorem witness_SupplyTouchesNoEngine :
    (stateOf (blockOf 1 8 1) [.supply zeroSource] noSource).inputs = .supply zeroSource :: [] := rfl

theorem witness_StepRunsDecoded : (oneCommand .nextUint64 (blockOf 1 8 1) noSource).inputs =
    .command 0x30000000000000000 :: [] ∧ decode 0x30000000000000000 = .instr .nextUint64 := ⟨rfl, by decide⟩

theorem witness_SourceOutcomes : 2048 ≤ (List.replicate 2048 (0 : Byte)).length ∧
    (List.replicate 2047 (0 : Byte)).length < 2048 ∧ ([] : List Byte).length < 2048 := by decide +kernel

/-- The stages for `z = 1` that table T1 lists. -/
theorem witness_FinalizerStages : (1 : Word) = 1 ^^^ (1 >>> 30) ∧
    (0xbf58476d1ce4e5b9 : Word).toNat = (1 : Word).toNat * 0xbf58476d1ce4e5b9 % 2 ^ 64 ∧
    (0xbf58477af7ec081a : Word) = 0xbf58476d1ce4e5b9 ^^^ (0xbf58476d1ce4e5b9 >>> 27) ∧
    (0x5692161dbd2f29de : Word).toNat = (0xbf58477af7ec081a : Word).toNat * 0x94d049bb133111eb % 2 ^ 64 := by decide

theorem witness_PoolOfSeed : 0 < 255 ∧ 254 < 255 ∧ poolFill 3 = poolFill 3 := ⟨by decide, by decide, rfl⟩

theorem witness_MixStepEffects : 0 < 256 ∧ 255 < 256 := by decide

/-- Table T4, cases A and B: the first, and the second, lookup hits `i`; the other one does not. -/
theorem witness_MixStepLookups :
    let e := engineOf 0 0x100 [(5, 0x28), (133, 0x10)]
    let f := engineOf 0 0x800 []
    idx8 (readWord e.buf 5 >>> 3) = 5 ∧ idx8 (readWord f.buf 1 >>> 3) ≠ 1 ∧
    idx8 (readWord (mixStep 1 f).buf 1 >>> 11) = 1 ∧ idx8 (readWord (mixStep 5 e).buf 5 >>> 11) ≠ 5 := by
  decide +kernel

theorem witness_PassInPlace : (0 ≤ 256 ∧ 0 < 256 ∧ 0 ≤ 0) ∧ (256 ≤ 256 ∧ 255 < 256 ∧ 255 < 256) := by decide

theorem witness_PassPrologue : ({ Engine.reset with c := 0xffffffffffffffff } : Engine).c = 0xffffffffffffffff := rfl

/-- The pass of the reset engine is a course its equations allow. -/
theorem witness_PassIsItsEquations :
    PassTrace Engine.reset (fun n => (mixSteps n (prologue Engine.reset)).buf)
      (fun n => (mixSteps n (prologue Engine.reset)).a) (fun n => (mixSteps n (prologue Engine.reset)).b) := by
  refine ⟨rfl, rfl, rfl, fun i hi => ?_⟩
  simp only [mixSteps_succ]
  generalize mixSteps i (prologue Engine.reset) = e
  have hpartner : partnerIndex (stepIndex i) = stepIndex ((i + 128) % 256) := BitVec.eq_of_toNat_eq (by
    simp [partnerIndex, idx8, stepIndex])
  have hgroup : amix (groupPosition (stepIndex i)) e.a = mixFormula i e.a := by
    have hpos : ∀ k (hk : k < 4), i % 4 = k → groupPosition (stepIndex i) = ⟨k, hk⟩ := fun k hk h => Fin.ext (by
      show (stepIndex i).toNat % 4 = k
      rw [stepIndex_toNat i hi, h])
    have hcases : i % 4 = 0 ∨ i % 4 = 1 ∨ i % 4 = 2 ∨ i % 4 = 3 := by omega
    unfold mixFormula
    rcases hcases with h | h | h | h <;> rw [hpos _ (by decide) h, h] <;> rfl
  refine ⟨?_, ?_, fun j hj => ?_, ?_⟩
  · rw [mixStep_a, hpartner, hgroup]
  · rw [mixStep_buf, readWord_writeWord_same]; rfl
  · rw [mixStep_buf, readWord_writeWord_ne _ _ _ _ hj]
  · rw [mixStep_b]; rfl

/-- Two engines with the same pool and accumulators, and different blocks and cursors. -/
theorem witness_PassIsPure : (blockOf 1 8 1).buf = Engine.reset.buf ∧ (blockOf 1 8 1).a = Engine.reset.a ∧
    (blockOf 1 8 1).b = Engine.reset.b ∧ (blockOf 1 8 1).c = Engine.reset.c := ⟨rfl, rfl, rfl, rfl⟩

theorem witness_SeedFromFullAnswers : 2048 ≤ (oneCommand .seedFrom (blockOf 1 8 1) zeroSource).source.bytes.length := by
  decide +kernel

theorem witness_SeedFromShortAnswers :
    (oneCommand .seedFrom (blockOf 1 8 1) noSource).source.bytes.length < 2048 ∧
    (oneCommand .seedFrom (blockOf 1 8 1) noSource).source.ending = .ended ∧
    (List.replicate 2047 (0 : Byte)).length < 2048 := by decide +kernel

theorem witness_SeedFromFaultAnswers :
    (oneCommand .seedFrom (blockOf 1 8 1) { bytes := [1], ending := .failed 5 }).source.bytes.length < 2048 ∧
    (oneCommand .seedFrom (blockOf 1 8 1) { bytes := [1], ending := .failed 5 }).source.ending = .failed 5 := by decide

/-- A state that waits: `SEED_FROM` with a source that stays silent after one byte. -/
def waitingState : State := oneCommand .seedFrom (blockOf 1 8 1) { bytes := [1], ending := .silent }

theorem witness_SeedFromWaits : Waiting waitingState := ⟨⟨_, [], rfl, by decide⟩, by decide⟩

theorem witness_SeedingForgetsThePast :
    2048 ≤ (oneCommand .seedFrom (blockOf 1 8 1) zeroSource).source.bytes.length ∧
    2048 ≤ (oneCommand .seedFrom Engine.reset { zeroSource with ending := .ended }).source.bytes.length ∧
    (oneCommand .seedFrom (blockOf 1 8 1) zeroSource).source.bytes.take 2048 =
      (oneCommand .seedFrom Engine.reset { zeroSource with ending := .ended }).source.bytes.take 2048 :=
  ⟨by decide +kernel, by decide +kernel, rfl⟩

theorem witness_AfterSeeding : 2048 ≤ (oneCommand .seedFrom (blockOf 1 8 1) zeroSource).source.bytes.length := by
  decide +kernel

theorem witness_ZeroBytesAreUnseeded :
    (oneCommand .seedFrom (blockOf 1 8 1) zeroSource).source.bytes.take 2048 = List.replicate 2048 0 := by
  decide +kernel

theorem witness_NextUint64Answers : (oneCommand .nextUint64 (blockOf 255 7 0) noSource).engine.cursor.val < 256 ∧
    (oneCommand .nextUint64 (blockOf 255 7 255) noSource).engine.cursor.val < 256 ∧
    (oneCommand .nextUint64 Engine.reset noSource).engine.cursor.val = 256 := by decide

theorem witness_NextInt63Answers : (oneCommand .nextInt63 (blockOf 255 7 0) noSource).engine.cursor.val < 256 ∧
    (oneCommand .nextInt63 (blockOf 255 7 255) noSource).engine.cursor.val < 256 ∧
    (oneCommand .nextInt63 Engine.reset noSource).engine.cursor.val = 256 := by decide

theorem witness_UnseededExtraction : (started [.command (encode .nextUint64)]).engine = Engine.reset := rfl

theorem witness_StreamAfterSeeding :
    (∀ i ∈ [Instr.nextUint64, .nextInt63], isExtraction i = true) ∧
    (stateOf (blockOf 1 8 0) (issue [.nextUint64, .nextInt63]) noSource).engine.cursor.val = 0 ∧
    (stateOf (blockOf 1 8 0) (issue [.nextUint64, .nextInt63]) noSource).inputs = issue [.nextUint64, .nextInt63] :=
  ⟨by decide, rfl, rfl⟩

theorem witness_StreamAfterExhaustion :
    (∀ i ∈ [Instr.nextUint64, .nextInt63], isExtraction i = true) ∧
    (started (issue [.nextUint64, .nextInt63])).engine.cursor.val = 256 ∧
    (started (issue [.nextUint64, .nextInt63])).inputs = issue [.nextUint64, .nextInt63] := ⟨by decide, rfl, rfl⟩

/-- A block of `NEXT_UINT64` and a block of `NEXT_INT63`, and a command after them. -/
theorem witness_BlockBoundary :
    let first := List.replicate 256 Instr.nextUint64
    let second := List.replicate 256 Instr.nextInt63
    let s := stateOf (blockOf 1 8 0) (issue (first ++ second) ++ [.reset]) noSource
    (∀ i ∈ first ++ second, isExtraction i = true) ∧ first.length = 256 ∧ second.length = 256 ∧
    s.engine.cursor.val = 0 ∧ s.inputs = issue (first ++ second) ++ [.reset] :=
  ⟨by decide +kernel, List.length_replicate, List.length_replicate, rfl, rfl⟩

/-- Each of the four ways that `c` is cleared, two extractions after it. -/
theorem witness_PassCounter :
    let cmds := [Instr.nextUint64, .nextInt63]
    (∀ i ∈ cmds, isExtraction i = true) ∧
    (started (issue (.seed 7 :: cmds))).inputs = issue (.seed 7 :: cmds) ∧
    (2048 ≤ (stateOf (blockOf 1 8 1) (issue (.seedFrom :: cmds)) zeroSource).source.bytes.length ∧
      (stateOf (blockOf 1 8 1) (issue (.seedFrom :: cmds)) zeroSource).inputs = issue (.seedFrom :: cmds)) ∧
    (started (issue (.new :: cmds))).inputs = issue (.new :: cmds) ∧
    (started (.reset :: issue cmds)).inputs = .reset :: issue cmds :=
  ⟨by decide, rfl, ⟨by decide +kernel, rfl⟩, rfl, rfl⟩

theorem witness_ReservedAnswered :
    (stateOf (blockOf 1 8 1) [.command 0x50000000000000000] noSource).inputs = .command 0x50000000000000000 :: [] ∧
    5 ≤ ((0x50000000000000000 : CommandWord).extractLsb' 64 3).toNat ∧
    5 ≤ ((0x7ffffffffffffffff : CommandWord).extractLsb' 64 3).toNat := ⟨rfl, by decide, by decide⟩

/-- A step that answers with an error: a reserved command. -/
theorem witness_ErrorsWriteNoState :
    let s := stateOf (blockOf 1 8 1) [.command 0x50000000000000000] noSource
    step s = .next (reservedCommand s) ∧ (reservedCommand s).responses = s.responses ++ [.illegalCmd] ∧
    ∀ d, Response.illegalCmd ≠ .ok d := ⟨rfl, rfl, fun _ h => Response.noConfusion h⟩

/-- Steps that answer with each of the three errors. -/
theorem witness_ErrorConditions :
    let s := oneCommand .seedFrom (blockOf 1 8 1) noSource
    let u := oneCommand .seedFrom (blockOf 1 8 1) { bytes := [1], ending := .failed 5 }
    let v := stateOf (blockOf 1 8 1) [.command 0x70000000000000000] noSource
    step s = .next (raise .shortRead (loseBytes s)) ∧ NextCommand .seedFrom s ∧
    step u = .next (raise (.sourceFault 5) (loseBytes u)) ∧ NextCommand .seedFrom u ∧
    step v = .next (reservedCommand v) ∧ NextReserved v :=
  ⟨rfl, ⟨_, [], rfl, by decide⟩, rfl, ⟨_, [], rfl, by decide⟩, rfl, ⟨_, [], 7, rfl, by decide⟩⟩

theorem witness_OneResponsePerCommand :
    (oneCommand .nextUint64 (blockOf 1 8 1) noSource).inputs = .command (encode .nextUint64) :: [] ∧
    ¬ Waiting (oneCommand .nextUint64 (blockOf 1 8 1) noSource) :=
  ⟨rfl, fun h => absurd h.2 (by decide)⟩

theorem witness_CommandsTerminate :
    ∀ h ∈ (started [.reset, .supply zeroSource, .command (encode (.seed 1)), .command (encode .nextUint64)]).inputs,
      needsNoSource h = true := by decide

theorem witness_EngineWriters : step (oneCommand .new (blockOf 1 8 1) noSource) =
    .next (complete Engine.reset (.ok 0) (oneCommand .new (blockOf 1 8 1) noSource)) := rfl

/-- Two engines that differ in the pool, for an extraction with a word at hand; two that differ in the old block, for one
from an exhausted block; two whose next words differ in bit 0 only, for `NEXT_INT63`; and a command that is no extraction. -/
theorem witness_OnlyTheNextWordShows :
    (let s := oneCommand .nextUint64 (blockOf 1 8 1) noSource
     let u := oneCommand .nextUint64 { blockOf 1 8 1 with buf := Vector.replicate 256 9 } noSource
     s.inputs = u.inputs ∧ s.source = u.source ∧ s.responses = u.responses ∧ (∃ t, step s = .next t) ∧
       (∃ t, step u = .next t) ∧ (extract s.engine).1 = (extract u.engine).1) ∧
    ((extract (blockOf 1 8 256)).1 = 0 ∧ (extract (blockOf 0 7 256)).1 = 0) ∧
    (let s := oneCommand .nextInt63 (blockOf 1 8 1) noSource
     let u := oneCommand .nextInt63 (blockOf 1 9 1) noSource
     NextCommand .nextInt63 s ∧ (extract s.engine).1 ≠ (extract u.engine).1 ∧
       (extract s.engine).1 >>> 1 = (extract u.engine).1 >>> 1) ∧
    (let s := stateOf (blockOf 1 8 1) [.reset] noSource
     ¬ NextCommand .nextUint64 s ∧ ¬ NextCommand .nextInt63 s) := by
  refine ⟨⟨rfl, rfl, rfl, ⟨_, rfl⟩, ⟨_, rfl⟩, ?_⟩, ⟨?_, ?_⟩, ⟨⟨_, [], rfl, by decide⟩, ?_, ?_⟩, ?_, ?_⟩
  · decide +kernel
  · decide +kernel
  · decide +kernel
  · decide +kernel
  · decide +kernel
  · rintro ⟨w, rest, h, -⟩
    exact HostInput.noConfusion (List.cons.inj h).1
  · rintro ⟨w, rest, h, -⟩
    exact HostInput.noConfusion (List.cons.inj h).1

theorem witness_LastWordKept : LastWordIsB (blockOf 1 8 1) ∧ ∃ t, step (oneCommand .nextUint64 (blockOf 1 8 1) noSource) =
    .next t := ⟨by unfold LastWordIsB; decide +kernel, ⟨_, rfl⟩⟩

end Sys2Proof.Tests
end

section
/-! The engine right after reset (R23). -/

namespace Sys2Proof.Machine

@[simp] theorem State.reset_engine : State.reset.engine = Engine.reset := rfl

/-- The tables of the reset state are filled with one word (R23), and every index reads it (R35). -/
@[simp] theorem readWord_replicate (x : Word) (i : Index) : readWord (Vector.replicate 256 x) i = x := by
  simp [readWord]

end Sys2Proof.Machine

namespace Sys2Proof.Proofs

open Sys2Proof.Machine

/-- Settles O9: the four registers are fields of `Engine.reset`, and both of its tables are filled with zero words. -/
theorem resetState : Obligations.ResetState := by
  unfold Obligations.ResetState
  rw [State.reset_engine]
  refine ⟨?cursor, reset_a, reset_b, reset_c, fun j => ⟨?pool, ?block⟩⟩
  case cursor => rw [reset_cursor]; rfl
  case pool => rw [reset_buf, readWord_replicate]
  case block => rw [reset_out, readWord_replicate]

end Sys2Proof.Proofs
end

section
/-! The little-endian word of eight seed bytes (R32) and the pool loaded with such words (R81). -/

namespace Sys2Proof.Machine

/-- A seed byte is zero-extended (R32). -/
theorem seedByte_toNat (d : Vector Byte 2048) (j : Fin 256) (k : Fin 8) :
    (seedByte d j k).toNat = d[8 * j.val + k.val].toNat :=
  BitVec.toNat_setWidth_of_le (by decide)

/-- Shifted to its place, a seed byte loses no bit: it ends at or below bit 63. -/
theorem seedByte_shiftLeft_toNat (d : Vector Byte 2048) (j : Fin 256) (k : Fin 8) (n : Nat) (hn : n ≤ 56) :
    (seedByte d j k <<< n).toNat = d[8 * j.val + k.val].toNat * 2 ^ n := by
  have hfits : d[8 * j.val + k.val].toNat * 2 ^ n < 2 ^ 64 := calc
    _ < 2 ^ 8 * 2 ^ n := Nat.mul_lt_mul_of_pos_right (BitVec.isLt _) (Nat.two_pow_pos n)
    _ = 2 ^ (8 + n) := (Nat.pow_add 2 8 n).symm
    _ ≤ 2 ^ 64 := Nat.pow_le_pow_right (by decide) (by omega)
  rw [BitVec.toNat_shiftLeft, seedByte_toNat, Nat.shiftLeft_eq, Nat.mod_eq_of_lt hfits]

/-- The eight bytes of a word do not overlap, so no addition of `leWord` wraps. -/
theorem leWord_toNat (d : Vector Byte 2048) (j : Fin 256) :
    (leWord d j).toNat =
      d[8 * j.val].toNat + d[8 * j.val + 1].toNat * 2 ^ 8 + d[8 * j.val + 2].toNat * 2 ^ 16 +
      d[8 * j.val + 3].toNat * 2 ^ 24 + d[8 * j.val + 4].toNat * 2 ^ 32 + d[8 * j.val + 5].toNat * 2 ^ 40 +
      d[8 * j.val + 6].toNat * 2 ^ 48 + d[8 * j.val + 7].toNat * 2 ^ 56 := by
  simp (disch := decide) only [leWord, BitVec.toNat_add, seedByte_toNat, seedByte_shiftLeft_toNat,
    Fin.coe_ofNat_eq_mod, Nat.reduceMod, Nat.add_zero]
  omega

/-- Byte `k` of a word is the `k`-th of its eight seed bytes. -/
theorem leWord_extractLsb' (d : Vector Byte 2048) (j : Fin 256) (k : Fin 8) :
    (leWord d j).extractLsb' (8 * k.val) 8 = d[8 * j.val + k.val] := by
  apply BitVec.eq_of_toNat_eq
  rw [BitVec.extractLsb'_toNat, Nat.shiftRight_eq_div_pow, leWord_toNat]
  fin_cases k <;> dsimp only [Nat.add_zero] <;> omega

/-- The loaded pool holds the words in order (R81). -/
theorem readWord_loadPool (d : Vector Byte 2048) (i : Index) : readWord (loadPool d) i = leWord d i.toFin := by
  simp [readWord, loadPool]

end Sys2Proof.Machine

namespace Sys2Proof.Proofs

open Sys2Proof.Machine

/-- Settles O16: the words on numbers by `leWord_toNat`, the load by `readWord_loadPool`, and the first and the last byte
of the pool as byte 0 of word 0 and byte 7 of word 255. -/
theorem seedBytesLittleEndian : Obligations.SeedBytesLittleEndian := by
  unfold Obligations.SeedBytesLittleEndian
  refine fun d j => ⟨leWord_toNat d j, ?load, ?first, ?last⟩
  case load =>
    have hj : (stepIndex j.val).toFin = j := Fin.ext (stepIndex_toNat j.val j.isLt)
    rw [readWord_loadPool, hj]
  case first =>
    rw [readWord_loadPool]
    exact leWord_extractLsb' d 0 0
  case last =>
    rw [readWord_loadPool]
    exact leWord_extractLsb' d 255 7

end Sys2Proof.Proofs
end

section
/-! Seeding (R76, R77, R80, R81): the pool each seeding makes, and what each does to the whole state. -/

namespace Sys2Proof.Machine

/-- The pool of a seed, word by word (R76). -/
theorem readWord_poolFill (value : Word) (i : Index) :
    readWord (poolFill value) i = fmix (i.setWidth 64 + value) := by
  simp [readWord, poolFill]

theorem stepIndex_toFin (j : Fin 256) : (stepIndex j.val).toFin = j := Fin.ext (stepIndex_toNat j.val j.isLt)

/-- The bytes of a request are the first 2048 of the source, in arrival order (R57). -/
theorem seedBlock_getElem (src : ByteSource) (h : Config.seedBytes ≤ src.bytes.length) (k : Fin 2048) :
    (seedBlock src h)[k.val] = src.bytes[k.val]'(Nat.lt_of_lt_of_le k.isLt h) := by
  simp [seedBlock]

/-- `SEED value` ends at once, with `(OK, 0)` (R77). -/
theorem exec_seed (value : Word) (s : State) :
    exec (.seed value) s = .next (complete (seedWith (poolFill value) s.engine) (.ok 0) s) := rfl

/-- `SEED_FROM` with a full request takes its bytes and ends with `(OK, 0)` (R81). -/
theorem exec_seedFrom_of_full (s : State) (d : Vector Byte 2048) (h : srcRead s.source = .full d) :
    exec .seedFrom s = .next (complete (seedWith (loadPool d) s.engine) (.ok 0) (takeSeedBytes s)) := by
  simp only [exec, execSeedFrom, h]

end Sys2Proof.Machine

namespace Sys2Proof.Proofs

open Sys2Proof.Machine

/-- Settles O30: the pool is `poolFill value`. -/
theorem seedAnswers : Obligations.SeedAnswers := by
  unfold Obligations.SeedAnswers
  refine fun value s => ⟨?decoded, poolFill value, readWord_poolFill value, exec_seed value s⟩
  case decoded => rw [decode_commandWord]; rfl

/-- Settles O31: the bytes taken are `seedBlock` of the source, and the pool is `loadPool` of them. -/
theorem seedFromFullAnswers : Obligations.SeedFromFullAnswers := by
  unfold Obligations.SeedFromFullAnswers
  refine fun s h => ⟨seedBlock s.source h, loadPool (seedBlock s.source h), seedBlock_getElem s.source h,
    fun j => ?word, exec_seedFrom_of_full s _ (srcRead_full s.source h)⟩
  case word => rw [readWord_loadPool, stepIndex_toFin]

end Sys2Proof.Proofs
end

section
/-! The mix step and the pass (R91 to R99): the operand forms of a step, its six effects, and that the equations of a whole
pass have the pass as their one solution. -/

namespace Sys2Proof.Machine

theorem partnerIndex_toNat (i : Index) : (partnerIndex i).toNat = (i.toNat + 128) % 256 := by
  simp [partnerIndex, idx8]

/-- The partner of position `i` is half a pool away, modulo 256 (R31). -/
theorem partnerIndex_stepIndex (i : Nat) : partnerIndex (stepIndex i) = stepIndex ((i + 128) % 256) :=
  BitVec.eq_of_toNat_eq (by simp [partnerIndex_toNat, stepIndex])

/-- Half a pool away is never the same position (R95). -/
theorem partnerIndex_ne (i : Index) : partnerIndex i ≠ i := fun h => by
  have hpartner := partnerIndex_toNat i
  rw [h] at hpartner
  omega

/-- A group of 4 divides the 256 positions, so the position's low 8 bits give `i mod 4` (R92). -/
theorem groupPosition_stepIndex_val (i : Nat) : (groupPosition (stepIndex i)).val = i % 4 :=
  Nat.mod_mod_of_dvd i (by decide : 4 ∣ 256)

/-- The accumulator mix of a step is the `case i mod 4` of rule R98. -/
theorem amix_groupPosition (i : Nat) (a : Word) : amix (groupPosition (stepIndex i)) a = mixFormula i a := by
  unfold mixFormula
  rw [← groupPosition_stepIndex_val]
  match groupPosition (stepIndex i) with
  | 0 | 1 | 2 | 3 => rfl

/-! ### One mix step (R94, R95) -/

/-- Effect (4): the new word `y`, from the lookup made before the write. -/
theorem readWord_mixStep_buf_same (i : Index) (e : Engine) : readWord (mixStep i e).buf i =
    readWord e.buf (firstLookup (readWord e.buf i)) + (mixStep i e).a + e.b := by
  rw [mixStep_buf, readWord_writeWord_same]

theorem readWord_mixStep_buf_ne (i j : Index) (e : Engine) (h : j ≠ i) :
    readWord (mixStep i e).buf j = readWord e.buf j := by
  rw [mixStep_buf, readWord_writeWord_ne _ _ _ _ h]

/-- Effects (5) and (6): the new `b`, from the lookup made after the write, which the new word `y` selects. -/
theorem mixStep_b_of_newWord (i : Index) (e : Engine) : (mixStep i e).b =
    readWord (mixStep i e).buf (secondLookup (readWord (mixStep i e).buf i)) + readWord e.buf i := by
  rw [readWord_mixStep_buf_same, ← mixStep_b]

theorem readWord_mixStep_out_same (i : Index) (e : Engine) : readWord (mixStep i e).out i = (mixStep i e).b := by
  rw [mixStep_out, readWord_writeWord_same]

theorem readWord_mixStep_out_ne (i j : Index) (e : Engine) (h : j ≠ i) :
    readWord (mixStep i e).out j = readWord e.out j := by
  rw [mixStep_out, readWord_writeWord_ne _ _ _ _ h]

/-- A mix step meets the equations of its position. -/
theorem mixStep_mixEquations (i : Nat) (e : Engine) :
    MixEquations i e.buf e.a e.b (mixStep (stepIndex i) e).buf (mixStep (stepIndex i) e).a
      (mixStep (stepIndex i) e).b := by
  refine ⟨?newA, readWord_mixStep_buf_same _ e, fun j => readWord_mixStep_buf_ne _ j e, mixStep_b _ e⟩
  case newA => rw [mixStep_a, amix_groupPosition, partnerIndex_stepIndex]

/-- The equations of a mix step leave nothing open: `a'` is given, then every word of `p'`, then `b'`. -/
theorem mixEquations_unique {i : Nat} {p p₁ p₂ : Table} {a b a₁ b₁ a₂ b₂ : Word}
    (h₁ : MixEquations i p a b p₁ a₁ b₁) (h₂ : MixEquations i p a b p₂ a₂ b₂) :
    p₁ = p₂ ∧ a₁ = a₂ ∧ b₁ = b₂ := by
  obtain ⟨ha₁, hy₁, hframe₁, hb₁⟩ := h₁
  obtain ⟨ha₂, hy₂, hframe₂, hb₂⟩ := h₂
  have ha : a₁ = a₂ := ha₁.trans ha₂.symm
  subst ha
  have hp : p₁ = p₂ := table_ext p₁ p₂ fun j => by
    by_cases hj : j = stepIndex i
    · rw [hj, hy₁, hy₂]
    · rw [hframe₁ j hj, hframe₂ j hj]
  subst hp
  exact ⟨rfl, rfl, hb₁.trans hb₂.symm⟩

/-! ### The whole pass (R98, R99) -/

/-- The mix steps after the prologue are a course that the equations of the pass allow. -/
theorem passTrace_mixSteps (e : Engine) :
    PassTrace e (fun n => (mixSteps n (prologue e)).buf) (fun n => (mixSteps n (prologue e)).a)
      (fun n => (mixSteps n (prologue e)).b) :=
  ⟨rfl, rfl, rfl, fun i _ => mixStep_mixEquations i (mixSteps i (prologue e))⟩

/-- They are the only one. -/
theorem mixSteps_of_passTrace {e : Engine} {P : Nat → Table} {A B : Nat → Word} (h : PassTrace e P A B)
    (n : Nat) (hn : n ≤ 256) :
    (mixSteps n (prologue e)).buf = P n ∧ (mixSteps n (prologue e)).a = A n ∧ (mixSteps n (prologue e)).b = B n := by
  obtain ⟨hP, hA, hB, hsteps⟩ := h
  induction n with
  | zero => exact ⟨hP.symm, hA.symm, hB.symm⟩
  | succ n ih =>
    obtain ⟨hbuf, ha, hb⟩ := ih (by omega)
    have hstep := mixStep_mixEquations n (mixSteps n (prologue e))
    rw [hbuf, ha, hb] at hstep
    exact mixEquations_unique hstep (hsteps n (by omega))

/-- The block keeps the `b` of each step: no later step of the pass writes there. -/
theorem readWord_mixSteps_out_of_lt (e : Engine) (i n : Nat) (hi : i < n) (hn : n ≤ 256) :
    readWord (mixSteps n e).out (stepIndex i) = (mixSteps (i + 1) e).b := by
  induction n with
  | zero => omega
  | succ n ih =>
    rw [mixSteps_succ]
    by_cases h : i = n
    · rw [h, readWord_mixStep_out_same, ← mixSteps_succ]
    · rw [readWord_mixStep_out_ne _ _ _ (stepIndex_ne i n (by omega) (by omega) h), ih (by omega) (by omega)]

/-- Every solution of the equations of a pass ends in what the pass gives. -/
theorem shuffle_of_passTrace {e : Engine} {P : Nat → Table} {A B : Nat → Word} (h : PassTrace e P A B) :
    (shuffle e).buf = P 256 ∧ (shuffle e).a = A 256 ∧ (shuffle e).b = B 256 ∧
      ∀ i, i < 256 → readWord (shuffle e).out (stepIndex i) = B (i + 1) := by
  obtain ⟨hbuf, ha, hb⟩ := mixSteps_of_passTrace h 256 (Nat.le_refl 256)
  refine ⟨(shuffle_buf e).trans hbuf, (shuffle_a e).trans ha, (shuffle_b e).trans hb, fun i hi => ?_⟩
  obtain ⟨-, -, hword⟩ := mixSteps_of_passTrace h (i + 1) hi
  rw [shuffle_out, readWord_mixSteps_out_of_lt _ i _ hi (Nat.le_refl 256), hword]

/-- Engines that agree in what the equations of a pass mention allow the same courses. -/
theorem passTrace_congr {e e' : Engine} {P : Nat → Table} {A B : Nat → Word} (hbuf : e.buf = e'.buf)
    (ha : e.a = e'.a) (hb : e.b = e'.b) (hc : e.c = e'.c) (h : PassTrace e P A B) : PassTrace e' P A B := by
  unfold PassTrace at h ⊢
  rwa [← hbuf, ← ha, ← hb, ← hc]

/-- The six items are all an engine has (R10). -/
theorem engine_ext {e e' : Engine} (hbuf : e.buf = e'.buf) (hout : e.out = e'.out) (ha : e.a = e'.a) (hb : e.b = e'.b)
    (hc : e.c = e'.c) (hcursor : e.cursor = e'.cursor) : e = e' := by
  cases e
  cases e'
  rw [Engine.mk.injEq]
  exact ⟨hbuf, hout, ha, hb, hc, hcursor⟩

/-- A pass depends on `buf`, `a`, `b` and `c` alone (R99): it is the solution of equations that mention nothing else. -/
theorem shuffle_congr {e e' : Engine} (hbuf : e.buf = e'.buf) (ha : e.a = e'.a) (hb : e.b = e'.b) (hc : e.c = e'.c) :
    shuffle e = shuffle e' := by
  have htrace := passTrace_mixSteps e
  obtain ⟨hbuf₁, ha₁, hb₁, hout₁⟩ := shuffle_of_passTrace htrace
  obtain ⟨hbuf₂, ha₂, hb₂, hout₂⟩ := shuffle_of_passTrace (passTrace_congr hbuf ha hb hc htrace)
  refine engine_ext (hbuf₁.trans hbuf₂.symm) (table_ext _ _ fun i => ?word) (ha₁.trans ha₂.symm) (hb₁.trans hb₂.symm)
    (by rw [shuffle_c, shuffle_c, hc]) (by rw [shuffle_cursor, shuffle_cursor])
  case word => rw [← stepIndex_of_toNat i, hout₁ _ i.isLt, hout₂ _ i.isLt]

end Sys2Proof.Machine

namespace Sys2Proof.Proofs

open Sys2Proof.Machine

/-- Settles O23: the step meets its equations, and the block is written at the step's position only. -/
theorem mixStepEffects : Obligations.MixStepEffects := by
  unfold Obligations.MixStepEffects
  exact fun i e _ => ⟨mixStep_mixEquations i e, readWord_mixStep_out_same _ e,
    fun j => readWord_mixStep_out_ne _ j e, mixStep_c _ e, mixStep_cursor _ e⟩

/-- Settles O24: the first lookup reads the old pool and the second the new one, and the two pools differ at `i` alone. -/
theorem mixStepLookups : Obligations.MixStepLookups := by
  unfold Obligations.MixStepLookups
  intro i e e' x y
  have hy : y = readWord e.buf (idx8 (x >>> 3)) + e'.a + e.b := readWord_mixStep_buf_same i e
  have hb : e'.b = readWord e'.buf (idx8 (y >>> 11)) + x := mixStep_b_of_newWord i e
  have hframe : ∀ j, j ≠ i → readWord e'.buf j = readWord e.buf j := fun j => readWord_mixStep_buf_ne i j e
  refine ⟨fun h => ?firstHits, fun h => ?firstElsewhere, fun h => ?secondHits, fun h => ?secondElsewhere,
    partnerIndex_ne i, hframe _ (partnerIndex_ne i), readWord_mixStep_out_same i e⟩
  case firstHits => rwa [h] at hy
  case firstElsewhere => rwa [hframe _ h]
  case secondHits => rwa [h] at hb
  case secondElsewhere => rwa [hframe _ h] at hb

/-- Settles O26: the prologue writes `b` and `c` only, and at all ones the new `c` it adds to `b` is 0. -/
theorem passPrologue : Obligations.PassPrologue := by
  unfold Obligations.PassPrologue
  refine ⟨fun e => ⟨prologue_c e, prologue_b e, rfl⟩, shuffle_eq, fun e hc => ?wraps⟩
  have hzero : e.c + 1 = 0#64 := by rw [hc]; rfl
  exact ⟨(shuffle_c e).trans hzero, by rw [prologue_b, hzero, BitVec.add_zero]⟩

/-- Settles O27: the cursor is not among the four items a pass reads (`shuffle_congr`). -/
theorem passEpilogue : Obligations.PassEpilogue := by
  unfold Obligations.PassEpilogue
  exact fun e k => ⟨shuffle_eq e, congrArg Fin.val (shuffle_cursor e), shuffle_congr rfl rfl rfl rfl⟩

/-- Settles O28: the mix steps are a solution (`passTrace_mixSteps`), and the only one (`shuffle_of_passTrace`). -/
theorem passIsItsEquations : Obligations.PassIsItsEquations := by
  unfold Obligations.PassIsItsEquations
  refine fun e => ⟨⟨_, _, _, passTrace_mixSteps e⟩, fun P A B h => ?ends⟩
  obtain ⟨hbuf, ha, hb, hout⟩ := shuffle_of_passTrace h
  exact ⟨hbuf, ha, hb, shuffle_c e, congrArg Fin.val (shuffle_cursor e), hout⟩

/-- Settles O29: `shuffle_congr`, by the equations of the pass. -/
theorem passIsPure : Obligations.PassIsPure := by
  unfold Obligations.PassIsPure
  exact ⟨fun _ _ => shuffle_congr, fun e => congrArg Fin.val (shuffle_cursor e)⟩

end Sys2Proof.Proofs
end

section
/-! Extraction (R110 to R114): what `NEXT_UINT64` and `NEXT_INT63` do to the whole state, one command at a time, in
runs within a block, and in runs across its boundary. -/

namespace Sys2Proof.Machine

/-! ### The commands and the word they take -/

theorem decode_encode (i : Instr) : decode (encode i) = .instr i := by
  cases i <;> rw [encode, decode_commandWord] <;> rfl

theorem issue_append (cmds cmds' : List Instr) : issue (cmds ++ cmds') = issue cmds ++ issue cmds' := List.map_append

theorem isExtraction_iff (i : Instr) : isExtraction i = true ↔ i = .nextUint64 ∨ i = .nextInt63 := by
  simp [isExtraction]

@[simp] theorem drawnData_nextUint64 (w : Word) : drawnData .nextUint64 w = w := rfl
@[simp] theorem drawnData_nextInt63 (w : Word) : drawnData .nextInt63 w = w >>> 1 := rfl

theorem readWord_stepIndex (v : Table) (n : Nat) (h : n < 256) : readWord v (stepIndex n) = v[n] := by
  simp only [readWord, stepIndex_toNat n h]

/-- An exhausted engine answers as the engine that its pass leaves (R110): the pass is all that tells them apart. -/
theorem extract_shuffle (e : Engine) (h : e.cursor = 256) : extract (shuffle e) = extract e := by
  have hlt : (shuffle e).cursor.val < 256 := by rw [shuffle_cursor]; decide
  rw [extract_exhausted e h, extract_buffered _ hlt]
  simp only [shuffle_cursor]
  rfl

/-! ### One extraction -/

/-- Both extractions make one state change (R110, R111) and answer `OK` (R114). -/
theorem exec_extraction (i : Instr) (s : State) (hi : isExtraction i = true) :
    exec i s = .next (complete (extract s.engine).2 (.ok (drawnData i (extract s.engine).1)) s) := by
  obtain rfl | rfl := (isExtraction_iff i).mp hi <;> rfl

/-- The next command of a list the host issues is executed (R62). -/
theorem step_issue (i : Instr) (cmds : List Instr) (rest : List HostInput) (s : State)
    (hin : s.inputs = issue (i :: cmds) ++ rest) : step s = exec i s := by
  have hhead : s.inputs = .command (encode i) :: (issue cmds ++ rest) := hin
  simp only [step, hhead, decode_encode]

/-- A step that extracts from the block at hand moves the cursor on and answers the word it was at. -/
theorem step_buffered (i : Instr) (cmds : List Instr) (rest : List HostInput) (s : State)
    (hi : isExtraction i = true) (hin : s.inputs = issue (i :: cmds) ++ rest) (h : s.engine.cursor.val < 256) :
    step s = .next
      { s with
        engine := { s.engine with cursor := ⟨s.engine.cursor.val + 1, Nat.succ_lt_succ h⟩ }
        inputs := issue cmds ++ rest
        responses := s.responses ++ [.ok (drawnData i (readWord s.engine.out (stepIndex s.engine.cursor.val)))] } := by
  rw [step_issue i cmds rest s hin, exec_extraction i s hi, extract_buffered _ h, readWord_stepIndex _ _ h, complete,
    hin]
  rfl

/-- A step that extracts from an exhausted engine is the step from the engine after its pass. -/
theorem step_exhausted (i : Instr) (cmds : List Instr) (rest : List HostInput) (s : State)
    (hi : isExtraction i = true) (hin : s.inputs = issue (i :: cmds) ++ rest) (h : s.engine.cursor = 256) :
    step s = step { s with engine := shuffle s.engine } := by
  rw [step_issue i cmds rest s hin, step_issue i cmds rest { s with engine := shuffle s.engine } hin,
    exec_extraction i s hi, exec_extraction i _ hi, extract_shuffle s.engine h]
  rfl

/-! ### Runs of extractions within a block (R113) -/

/-- What a run that ends in a next state did first: the converse of `runs_succ`. -/
theorem step_of_runs_succ (n : Nat) (s t : State) (h : runs (n + 1) s = .next t) :
    ∃ u, step s = .next u ∧ runs n u = .next t := by
  cases hstep : step s with
  | next u => exact ⟨u, rfl, (runs_succ n s u hstep).symm.trans h⟩
  | fault r => exact nomatch r
  | refused r =>
    have hc : Sys2Proof.core.step s = .refused r := hstep
    simp only [runs, Host.Core.run, hc] at h
    cases h

/-- A run goes on from where an earlier part of it leads. -/
theorem runs_add (m n : Nat) (s t : State) (h : runs m s = .next t) : runs (m + n) s = runs n t := by
  induction m generalizing s with
  | zero =>
    rw [runs_zero, Host.Outcome.next.injEq] at h
    rw [Nat.zero_add, h]
  | succ m ih =>
    obtain ⟨u, hstep, hrun⟩ := step_of_runs_succ m s t h
    rw [Nat.succ_add, runs_succ _ s u hstep, ih u hrun]

/-- The answers of the extractions `cmds` to the words of the block at hand, from the cursor on. -/
def answersFromCursor (e : Engine) (cmds : List Instr) : List Response :=
  cmds.mapIdx fun n i => .ok (drawnData i (readWord e.out (stepIndex (e.cursor.val + n))))

theorem answersFromCursor_cons (e : Engine) (i : Instr) (cmds : List Instr) (h : e.cursor.val + 1 < 257) :
    answersFromCursor e (i :: cmds) = .ok (drawnData i (readWord e.out (stepIndex e.cursor.val))) ::
      answersFromCursor { e with cursor := ⟨e.cursor.val + 1, h⟩ } cmds := by
  simp only [answersFromCursor, List.mapIdx_cons, Nat.add_zero, Nat.add_assoc, Nat.add_comm 1]

/-- From its first word on, the answers are those of the block. -/
theorem answersFromCursor_of_zero (e : Engine) (cmds : List Instr) (h : e.cursor.val = 0) :
    answersFromCursor e cmds = blockAnswers e.out cmds := by
  simp only [answersFromCursor, blockAnswers, h, Nat.zero_add]

/-- As many extractions as the block has words left answer these in order, and of the engine the cursor alone changes. -/
theorem runs_buffered (cmds : List Instr) (rest : List HostInput) (s : State) (c : Fin 257)
    (hcmds : ∀ i ∈ cmds, isExtraction i = true) (hin : s.inputs = issue cmds ++ rest)
    (hc : c.val = s.engine.cursor.val + cmds.length) :
    runs cmds.length s = .next
      { s with
        engine := { s.engine with cursor := c }
        inputs := rest
        responses := s.responses ++ answersFromCursor s.engine cmds } := by
  induction cmds generalizing s with
  | nil =>
    have hcursor : c = s.engine.cursor := Fin.ext hc
    have hrest : rest = s.inputs := hin.symm
    have hnone : s.responses ++ answersFromCursor s.engine [] = s.responses := List.append_nil _
    rw [hcursor, hrest, hnone]
    rfl
  | cons i cmds ih =>
    rw [List.length_cons] at hc
    have hlt : s.engine.cursor.val < 256 := by omega
    obtain ⟨hi, hcmds⟩ := List.forall_mem_cons.mp hcmds
    have hrest : c.val = s.engine.cursor.val + 1 + cmds.length := by omega
    rw [List.length_cons, runs_succ _ _ _ (step_buffered i cmds rest s hi hin hlt), ih _ hcmds rfl hrest,
      answersFromCursor_cons _ _ _ (Nat.succ_lt_succ hlt), List.append_assoc]
    rfl

/-- From an exhausted engine, up to 256 extractions run one pass and answer the words of its block in order. -/
theorem runs_exhausted (i : Instr) (cmds : List Instr) (rest : List HostInput) (s : State) (c : Fin 257)
    (hcmds : ∀ j ∈ i :: cmds, isExtraction j = true) (hin : s.inputs = issue (i :: cmds) ++ rest)
    (hcursor : s.engine.cursor = 256) (hc : c.val = (i :: cmds).length) :
    runs (i :: cmds).length s = .next
      { s with
        engine := { shuffle s.engine with cursor := c }
        inputs := rest
        responses := s.responses ++ blockAnswers (shuffle s.engine).out (i :: cmds) } := by
  have hzero : (shuffle s.engine).cursor.val = 0 := congrArg Fin.val (shuffle_cursor s.engine)
  have hrun := runs_buffered (i :: cmds) rest { s with engine := shuffle s.engine } c hcmds hin
    (by rw [hc, hzero, Nat.zero_add])
  rw [answersFromCursor_of_zero _ _ hzero] at hrun
  obtain ⟨u, hstep, hrest⟩ := step_of_runs_succ cmds.length _ _ hrun
  have hsame := step_exhausted i cmds rest s (hcmds i List.mem_cons_self) hin hcursor
  exact (runs_succ cmds.length s u (hsame.trans hstep)).trans hrest

/-- From a cursor at 0, 256 extractions answer the block in order and leave it exhausted. -/
theorem runs_block (cmds : List Instr) (rest : List HostInput) (s : State) (hcmds : ∀ i ∈ cmds, isExtraction i = true)
    (hlen : cmds.length = 256) (hcursor : s.engine.cursor.val = 0) (hin : s.inputs = issue cmds ++ rest) :
    runs 256 s = .next
      { s with
        engine := { s.engine with cursor := 256 }
        inputs := rest
        responses := s.responses ++ blockAnswers s.engine.out cmds } := by
  have hrun := runs_buffered cmds rest s 256 hcmds hin (by rw [hlen, hcursor]; rfl)
  rwa [hlen, answersFromCursor_of_zero _ _ hcursor] at hrun

/-- From a cursor at 0, extractions past the block run one pass at its boundary and go on in the block of that pass. -/
theorem runs_across_boundary (first : List Instr) (i : Instr) (cmds : List Instr) (rest : List HostInput) (s : State)
    (c : Fin 257) (hfirst : ∀ j ∈ first, isExtraction j = true) (hcmds : ∀ j ∈ i :: cmds, isExtraction j = true)
    (hlen : first.length = 256) (hcursor : s.engine.cursor.val = 0)
    (hin : s.inputs = issue first ++ (issue (i :: cmds) ++ rest)) (hc : c.val = (i :: cmds).length) :
    runs (256 + (i :: cmds).length) s = .next
      { s with
        engine := { shuffle { s.engine with cursor := 256 } with cursor := c }
        inputs := rest
        responses := s.responses ++ blockAnswers s.engine.out first ++
          blockAnswers (shuffle { s.engine with cursor := 256 }).out (i :: cmds) } := by
  rw [runs_add _ _ _ _ (runs_block first _ s hfirst hlen hcursor hin)]
  exact runs_exhausted i cmds rest _ c hcmds rfl rfl hc

end Sys2Proof.Machine

namespace Sys2Proof.Proofs

open Sys2Proof.Machine

/-- Settles O38: `extract` takes one of its two paths, by the cursor. -/
theorem nextUint64Answers : Obligations.NextUint64Answers := by
  unfold Obligations.NextUint64Answers
  refine fun s arg => ⟨?decoded, by decide, fun h => ?buffered, fun h => ?exhausted⟩
  case decoded => rw [decode_commandWord]; rfl
  case buffered => rw [exec_extraction _ _ rfl, extract_buffered _ h]; rfl
  case exhausted => rw [exec_extraction _ _ rfl, extract_exhausted _ (Fin.ext h)]; rfl

/-- Settles O40: both are `exec_extraction`, of one word, and a logical shift by one clears the sign bit. -/
theorem int63IsUint64Shifted : Obligations.Int63IsUint64Shifted := by
  unfold Obligations.Int63IsUint64Shifted
  intro s arg
  refine ⟨?decoded, by decide, { s with engine := (extract s.engine).2, inputs := s.inputs.tail }, _, _,
    exec_extraction _ s rfl, exec_extraction _ s rfl, rfl, ?number, ?bits, ?top, ?signed⟩
  case decoded => rw [decode_commandWord]; rfl
  case number =>
    rw [drawnData_nextInt63, drawnData_nextUint64, BitVec.toNat_ushiftRight, Nat.shiftRight_eq_div_pow, Nat.pow_one]
  case bits => ext k hk; simp [Nat.add_comm]
  case top => simp
  case signed => rw [drawnData_nextInt63, BitVec.toInt_ushiftRight_of_lt Nat.one_pos, BitVec.toNat_ushiftRight]

/-- Settles O41: the response `exec_extraction` adds. -/
theorem extractionNeverFails : Obligations.ExtractionNeverFails := by
  unfold Obligations.ExtractionNeverFails
  exact fun s => ⟨⟨_, _, exec_extraction .nextUint64 s rfl, complete_responses ..⟩,
    ⟨_, _, exec_extraction .nextInt63 s rfl, complete_responses ..⟩⟩

/-- Settles O45: the first block is a run within it (`runs_block`), and one extraction more, or 256 more, a run across its
boundary. -/
theorem blockBoundary : Obligations.BlockBoundary := by
  unfold Obligations.BlockBoundary
  intro s first second rest hcmds hfirst hsecond hcursor hin
  obtain ⟨hcmds₁, hcmds₂⟩ := List.forall_mem_append.mp hcmds
  rw [issue_append, List.append_assoc] at hin
  obtain ⟨i, cmds, rfl⟩ := List.exists_cons_of_length_eq_add_one hsecond
  obtain ⟨hi, -⟩ := List.forall_mem_cons.mp hcmds₂
  have hone := runs_across_boundary first i [] (issue cmds ++ rest) s 1 hcmds₁ (List.forall_mem_singleton.mpr hi) hfirst
    hcursor hin rfl
  have hall := runs_across_boundary first i cmds rest s 256 hcmds₁ hcmds₂ hfirst hcursor hin hsecond.symm
  rw [hsecond] at hall
  exact ⟨⟨_, runs_block first _ s hcmds₁ hfirst hcursor hin, rfl, rfl⟩, ⟨_, hone, rfl⟩, ⟨_, hall, rfl⟩⟩

end Sys2Proof.Proofs
end

section
/-! Errors (R120 to R124): what a step can do to the responses, and what a step that answers with an error leaves alone. -/

namespace Sys2Proof.Machine

/-! ### `SEED_FROM` by the outcome of a request that is not full (R82 to R84) -/

theorem exec_seedFrom_of_short (s : State) (n : Fin 2048) (h : srcRead s.source = .short n) :
    exec .seedFrom s = .next (raise .shortRead (loseBytes s)) := by
  simp only [exec, execSeedFrom, h]

theorem exec_seedFrom_of_fault (s : State) (n : Fin 2048) (info : Word) (h : srcRead s.source = .fault n info) :
    exec .seedFrom s = .next (raise (.sourceFault info) (loseBytes s)) := by
  simp only [exec, execSeedFrom, h]

theorem exec_seedFrom_of_never (s : State) (h : srcRead s.source = .never) : exec .seedFrom s = .next s := by
  simp only [exec, execSeedFrom, h]

/-! ### The response a step adds -/

/-- The cause of each error condition in the state a step starts from (R121, R122, R123). -/
def ErrorCause (s : State) : ErrorCondition → Prop
  | .shortRead => NextCommand .seedFrom s ∧ s.source.bytes.length < 2048 ∧ s.source.ending = .ended
  | .sourceFault info => NextCommand .seedFrom s ∧ s.source.bytes.length < 2048 ∧ s.source.ending = .failed info
  | .illegalCmd => NextReserved s

/-- What a step from `s` can do, by the response it adds: none, an `OK`, or that of an error with its cause in `s`, raised
from `s` itself or with the byte source already short of the bytes it lost. -/
inductive Answers (s : State) : State → Prop
  | none {t : State} (hresponses : t.responses = s.responses) : Answers s t
  | ok (e : Engine) (d : Word) {u : State} (hresponses : u.responses = s.responses) : Answers s (complete e (.ok d) u)
  | error {err : ErrorCondition} {u : State} (hcause : ErrorCause s err) (hu : u = s ∨ u = loseBytes s) :
      Answers s (raise err u)

/-- A `SEED_FROM` answers by what its byte source holds (R80 to R84). -/
theorem exec_seedFrom_answers {s t : State} (hnext : NextCommand .seedFrom s) (h : exec .seedFrom s = .next t) :
    Answers s t := by
  by_cases hfull : Config.seedBytes ≤ s.source.bytes.length
  · cases (exec_seedFrom_of_full s _ (srcRead_full _ hfull)).symm.trans h
    exact .ok _ _ (takeSeedBytes_responses s)
  · have hlen : s.source.bytes.length < 2048 := Nat.lt_of_not_le hfull
    cases hend : s.source.ending with
    | ended =>
      cases (exec_seedFrom_of_short s _ (srcRead_short _ hfull hend)).symm.trans h
      exact .error ⟨hnext, hlen, hend⟩ (.inr rfl)
    | failed info =>
      cases (exec_seedFrom_of_fault s _ info (srcRead_fault _ info hfull hend)).symm.trans h
      exact .error ⟨hnext, hlen, hend⟩ (.inr rfl)
    | silent =>
      cases (exec_seedFrom_of_never s (srcRead_never _ hfull hend)).symm.trans h
      exact .none rfl

/-- Of the five operations only `SEED_FROM` can answer otherwise than with an `OK`. -/
theorem exec_answers {i : Instr} {s t : State} (hnext : NextCommand i s) (h : exec i s = .next t) : Answers s t := by
  cases i with
  | seedFrom => exact exec_seedFrom_answers hnext h
  | new => cases h; exact .ok _ _ rfl
  | seed value => cases (exec_seed value s).symm.trans h; exact .ok _ _ rfl
  | nextUint64 => cases (exec_extraction .nextUint64 s rfl).symm.trans h; exact .ok _ _ rfl
  | nextInt63 => cases (exec_extraction .nextInt63 s rfl).symm.trans h; exact .ok _ _ rfl

/-- Every step is one of the cases of `Answers`: along the host's next input, and what a command word decodes to. -/
theorem step_answers {s t : State} (h : step s = .next t) : Answers s t := by
  cases hin : s.inputs with
  | nil =>
    simp only [step, hin] at h
    cases h
    exact .none rfl
  | cons input rest =>
    cases input with
    | reset =>
      simp only [step, hin] at h
      cases h
      exact .none (hostReset_responses s)
    | supply src =>
      simp only [step, hin] at h
      cases h
      exact .none (hostSupply_responses src s)
    | command w =>
      cases hdecode : decode w with
      | instr i =>
        simp only [step, hin, hdecode] at h
        exact exec_answers ⟨w, rest, hin, hdecode⟩ h
      | reserved op =>
        simp only [step, hin, hdecode] at h
        cases h
        exact .error ⟨w, rest, op, hin, hdecode⟩ (.inl rfl)

/-! ### What an error leaves alone, and what it answers (R124) -/

/-- A step whose response is not `OK` has raised an error with its cause in `s`: the engine is as before, neither raising
the error nor losing the source's bytes writes it, and the next input is due. -/
theorem step_error {s t : State} {r : Response} (h : step s = .next t) (hr : t.responses = s.responses ++ [r])
    (hok : ∀ d, r ≠ .ok d) :
    ∃ err, ErrorCause s err ∧ r = errorResponse err ∧ t.engine = s.engine ∧ t.inputs = s.inputs.tail := by
  cases step_answers h with
  | none hresponses => simp [hresponses] at hr
  | ok e d hresponses =>
    rw [complete_responses, hresponses, List.append_cancel_left_eq, List.singleton_inj] at hr
    exact absurd hr.symm (hok d)
  | @error err u hcause hu =>
    have hresponses : u.responses = s.responses := by obtain rfl | rfl := hu <;> rfl
    rw [raise_responses, hresponses, List.append_cancel_left_eq, List.singleton_inj] at hr
    refine ⟨err, hcause, hr.symm, ?_⟩
    obtain rfl | rfl := hu <;> exact ⟨rfl, rfl⟩

/-- The status and data of an error's response (R120); the data of `SOURCE_FAULT` is the word its source failed with. -/
theorem errorResponse_fields {s : State} {err : ErrorCondition} (hcause : ErrorCause s err) :
    ((errorResponse err).status = 1 ∧ (errorResponse err).data = 0) ∨
    ((errorResponse err).status = 2 ∧ s.source.ending = .failed (errorResponse err).data) ∨
    ((errorResponse err).status = 3 ∧ (errorResponse err).data = 0) := by
  cases err with
  | shortRead => exact .inl ⟨rfl, rfl⟩
  | sourceFault info =>
    obtain ⟨-, -, hend⟩ := hcause
    exact .inr (.inl ⟨rfl, hend⟩)
  | illegalCmd => exact .inr (.inr ⟨rfl, rfl⟩)

end Sys2Proof.Machine

namespace Sys2Proof.Proofs

open Sys2Proof.Machine

/-- Settles O48: such a step raised an error (`step_error`), whose response has the fields of `errorResponse_fields`. -/
theorem errorsWriteNoState : Obligations.ErrorsWriteNoState := by
  unfold Obligations.ErrorsWriteNoState
  intro s t r hstep hresponses hok
  obtain ⟨err, hcause, rfl, hengine, hinputs⟩ := step_error hstep hresponses hok
  exact ⟨hengine, hinputs, errorResponse_fields hcause⟩

end Sys2Proof.Proofs
end

section
/-! Transport (R51 to R62): decoding and encoding agree, the row of the opcode table a word selects, response words, and
the byte sources of `SEED_FROM` lines. -/

namespace Sys2Proof.Machine

/-! ### Command words by their fields (R51, R52, R62) -/

/-- The bits of `arg` that a command means: all of them for `SEED`, none for the others (R53, R54). -/
def keptArg (i : Instr) (arg : Word) : Word :=
  match i with
  | .seed _ => arg
  | .new | .seedFrom | .nextUint64 | .nextInt63 => 0

theorem keptArg_of_ne_seed {i : Instr} (h : ∀ v, i ≠ .seed v) (arg : Word) : keptArg i arg = 0 := by
  cases i with
  | seed v => exact absurd rfl (h v)
  | new | seedFrom | nextUint64 | nextInt63 => rfl

/-- A word that decodes to a command is its encoding, apart from the ignored bits. -/
theorem encode_of_decode {w : CommandWord} {i : Instr} (h : decode w = .instr i) :
    encode i = commandWord (opField w) (keptArg i (argField w)) := by
  rw [← commandWord_fields w, decode_commandWord] at h
  split_ifs at h with hop hop hop hop hop <;> cases h <;> rw [hop] <;> rfl

/-- The reserved opcodes are 5, 6 and 7 (R55). -/
theorem decode_eq_reserved_iff (w : CommandWord) (op : BitVec 3) :
    decode w = .reserved op ↔ op = opField w ∧ 5 ≤ (opField w).toNat := by
  have hdefined : ∀ k : BitVec 3, 5 ≤ k.toNat ↔ ¬k = 0 ∧ ¬k = 1 ∧ ¬k = 2 ∧ ¬k = 3 ∧ ¬k = 4 := by decide
  rw [← commandWord_fields w, decode_commandWord, opField_commandWord, hdefined]
  constructor
  · intro h
    split_ifs at h with hnew hseed hseedFrom hnextUint64 hnextInt63
    cases h
    exact ⟨rfl, hnew, hseed, hseedFrom, hnextUint64, hnextInt63⟩
  · rintro ⟨rfl, hnew, hseed, hseedFrom, hnextUint64, hnextInt63⟩
    rw [if_neg hnew, if_neg hseed, if_neg hseedFrom, if_neg hnextUint64, if_neg hnextInt63]

/-- The mask of the opcode table keeps the opcode and clears `arg` (R52). -/
theorem and_tableMask (w : CommandWord) : w &&& Laws.tableMask = commandWord (opField w) 0 := by
  have hmask : Laws.tableMask = commandWord (BitVec.allOnes 3) 0 := by decide
  calc w &&& Laws.tableMask
    _ = commandWord (opField w) (argField w) &&& commandWord (BitVec.allOnes 3) 0 := by rw [commandWord_fields, hmask]
    _ = (opField w &&& BitVec.allOnes 3) ++ (argField w &&& 0#64) := BitVec.and_append
    _ = commandWord (opField w) 0 := by rw [BitVec.and_allOnes, BitVec.and_zero]; rfl

/-- A word shows the match value of an opcode under the mask exactly when it has that opcode (R52). -/
theorem and_tableMask_eq_iff (w : CommandWord) (op : BitVec 3) :
    w &&& Laws.tableMask = commandWord op 0 ↔ opField w = op := by
  rw [and_tableMask]
  refine ⟨fun h => ?_, congrArg (commandWord · 0)⟩
  have hop := congrArg opField h
  rwa [opField_commandWord, opField_commandWord] at hop

/-! ### Response words (R56) -/

@[simp] theorem word_status (r : Response) : r.word.extractLsb' 64 2 = r.status := BitVec.extractLsb'_append_eq_left
@[simp] theorem word_data (r : Response) : r.word.extractLsb' 0 64 = r.data := BitVec.extractLsb'_append_eq_right

/-- The response with the given status code and data. -/
def responseOfFields (status : BitVec 2) (data : Word) : Response :=
  match status with
  | 0 => .ok data
  | 1 => .shortRead
  | 2 => .sourceFault data
  | 3 => .illegalCmd

theorem responseOfFields_status_data (r : Response) : responseOfFields r.status r.data = r := by
  cases r <;> rfl

/-- The status code and the data tell responses apart, so their words do. -/
theorem word_injective {r r' : Response} (h : r.word = r'.word) : r = r' := by
  rw [← responseOfFields_status_data r, ← responseOfFields_status_data r', ← word_status, ← word_data, h, word_status,
    word_data]

/-! ### Byte sources and their requests (R57, R59) -/

theorem seedBlock_toList (src : ByteSource) (h : Config.seedBytes ≤ src.bytes.length) :
    (seedBlock src h).toList = src.bytes.take 2048 := rfl

theorem unstatedBytes_length (n : Nat) : (unstatedBytes n).length = n := by
  rw [unstatedBytes, List.length_map, List.length_range]

/-- A full request reads what the line lists, whatever the source holds beyond it. -/
theorem srcRead_fullLine (bytes : List Byte) (h : bytes.length = 2048) :
    ∃ d, srcRead (OutcomeText.full bytes).source = .full d ∧ d.toList = bytes := by
  have hlen : Config.seedBytes ≤ (OutcomeText.full bytes).source.bytes.length := by
    rw [OutcomeText.source, List.length_append, h]
    exact Nat.le_add_right 2048 _
  refine ⟨_, srcRead_full _ hlen, ?_⟩
  rw [seedBlock_toList, ← h]
  exact List.take_left

/-- The bytes of a short or a fault line are too few for a full request. -/
theorem unstatedBytes_not_full (n : Fin 2048) : ¬ Config.seedBytes ≤ (unstatedBytes n.val).length := by
  rw [unstatedBytes_length]
  exact Nat.not_le_of_lt n.isLt

theorem srcRead_shortLine (n : Fin 2048) : srcRead (OutcomeText.short n.val).source = .short n := by
  rw [srcRead_short _ (unstatedBytes_not_full n) rfl]
  exact congrArg SrcOutcome.short (Fin.ext (unstatedBytes_length n.val))

theorem srcRead_faultLine (n : Fin 2048) (info : Word) :
    srcRead (OutcomeText.fault n.val info).source = .fault n info := by
  rw [srcRead_fault _ info (unstatedBytes_not_full n) rfl]
  exact congrArg (SrcOutcome.fault · info) (Fin.ext (unstatedBytes_length n.val))

end Sys2Proof.Machine

namespace Sys2Proof.Proofs

open Sys2Proof.Machine

/-- Settles O1: the two fields are the whole word (`commandWord_fields`), and a command's encoding has the opcode of the
word it was decoded from and of `arg` the bits the command means (`encode_of_decode`). -/
theorem decodeEncodeAgree : Obligations.DecodeEncodeAgree := by
  unfold Obligations.DecodeEncodeAgree
  refine ⟨decode_encode, fun w v h => ?seed, fun w i h hi => ?others, fun w => ?reserved, fun w op h => ?named⟩
  case seed => exact (encode_of_decode h).trans (commandWord_fields w)
  case others =>
    rw [encode_of_decode h, keptArg_of_ne_seed hi]
    exact (and_tableMask w).symm
  case reserved => rw [decode_eq_reserved_iff, and_iff_right rfl]
  case named =>
    obtain ⟨hop, -⟩ := (decode_eq_reserved_iff w op).mp h
    exact hop

/-- Settles O2: showing a row's match value under the mask is having its opcode (`and_tableMask_eq_iff`). -/
theorem opcodeMap : Obligations.OpcodeMap := by
  unfold Obligations.OpcodeMap
  intro w
  have hnew : w &&& 0x70000000000000000 = 0x00000000000000000 ↔ opField w = 0 := and_tableMask_eq_iff w 0
  have hseed : w &&& 0x70000000000000000 = 0x10000000000000000 ↔ opField w = 1 := and_tableMask_eq_iff w 1
  have hseedFrom : w &&& 0x70000000000000000 = 0x20000000000000000 ↔ opField w = 2 := and_tableMask_eq_iff w 2
  have hnextUint64 : w &&& 0x70000000000000000 = 0x30000000000000000 ↔ opField w = 3 := and_tableMask_eq_iff w 3
  have hnextInt63 : w &&& 0x70000000000000000 = 0x40000000000000000 ↔ opField w = 4 := and_tableMask_eq_iff w 4
  have harg : w.setWidth 64 = argField w := BitVec.setWidth_eq_extractLsb' (by decide)
  simp only [hnew, hseed, hseedFrom, hnextUint64, hnextInt63, harg]
  calc decode w
    _ = decode (commandWord (opField w) (argField w)) := by rw [commandWord_fields]
    _ = _ := decode_commandWord (opField w) (argField w)

/-- Settles O3: the opcode of `SEED` is the only one whose row reads `arg` (`decode_commandWord`). -/
theorem argIgnored : Obligations.ArgIgnored := by
  unfold Obligations.ArgIgnored
  intro op arg arg' hop
  rw [decode_commandWord, decode_commandWord, if_neg hop, if_neg hop]

/-- Settles O4: the operand is the whole of `arg`, and the assembler makes it of the written seed's residue. -/
theorem seedOperand : Obligations.SeedOperand := by
  unfold Obligations.SeedOperand
  refine ⟨fun v => decode_encode (.seed v), fun s _ => ⟨_, _, rfl, decode_encode _, ?residue⟩⟩
  case residue => rw [BitVec.toNat_ofInt, Int.toNat_of_nonneg (Int.emod_nonneg s (by decide))]; rfl

/-- Settles O5: each word is a closed term, written out in the statement. -/
theorem decodeWords : Obligations.DecodeWords := by
  unfold Obligations.DecodeWords
  decide

/-- Settles O6: the fields of each word are `word_status` and `word_data`. -/
theorem responseWords : Obligations.ResponseWords := by
  unfold Obligations.ResponseWords
  exact ⟨fun _ => ⟨word_status _, word_data _⟩, by decide, fun _ => ⟨word_status _, word_data _⟩, by decide,
    fun _ _ => word_injective⟩

/-- Settles O7: one request lemma for each outcome a line can name. -/
theorem seedFromLine : Obligations.SeedFromLine := by
  unfold Obligations.SeedFromLine
  refine ⟨fun _ => rfl, fun bytes hwf => srcRead_fullLine bytes (beq_iff_eq.mp hwf), srcRead_shortLine,
    srcRead_faultLine, fun n => ?bound⟩
  case bound => exact decide_eq_true_iff.trans Nat.lt_succ_iff

/-- Settles O8: both are repetitions of one command word, as is what the host issues. -/
theorem pseudoOperations : Obligations.PseudoOperations := by
  unfold Obligations.PseudoOperations
  intro n
  have hissue : issue (List.replicate n .nextUint64) = List.replicate n (.command (encode .nextUint64)) :=
    List.map_replicate
  exact ⟨hissue.symm, hissue.symm⟩

end Sys2Proof.Proofs
end

section
/-! Operand forms (R31, R33, R57) and word functions (R75, R76, R93): index forms, serialised bytes, the request to a
byte source, the seed finalizer and the pool it fills, and the accumulator mixes. -/

namespace Sys2Proof.Machine

/-! ### The indices of a mix step (R31) -/

/-- Half of the 256 positions on, modulo 256, is the same position with bit 7 inverted. -/
theorem partnerIndex_eq_xor (i : Index) : partnerIndex i = i ^^^ 0x80 := by
  have hsum : partnerIndex i = i + 0x80 := BitVec.eq_of_toNat_eq (by rw [partnerIndex_toNat, BitVec.toNat_add]; rfl)
  have hxor : ∀ j : Index, j + 0x80 = j ^^^ 0x80 := by decide
  rw [hsum, hxor]

/-- The low 8 bits of a shifted word are 8 bits of the word. -/
theorem idx8_ushiftRight (x : Word) (n : Nat) : idx8 (x >>> n) = x.extractLsb' n 8 :=
  BitVec.setWidth_ushiftRight_eq_extractLsb

theorem idx8_ushiftRight_toNat (x : Word) (n : Nat) : (idx8 (x >>> n)).toNat = x.toNat / 2 ^ n % 256 := by
  rw [idx8_ushiftRight, BitVec.extractLsb'_toNat, Nat.shiftRight_eq_div_pow]

/-! ### The bytes of a serialised word (R33) -/

theorem outputBytes_getElem (w : Word) (k : Nat) (hk : k < 8) : (outputBytes w)[k] = w.extractLsb' (8 * k) 8 :=
  Vector.getElem_ofFn hk

theorem outputBytes_toNat (w : Word) (k : Nat) (hk : k < 8) :
    (outputBytes w)[k].toNat = w.toNat / 2 ^ (8 * k) % 256 := by
  rw [outputBytes_getElem, BitVec.extractLsb'_toNat, Nat.shiftRight_eq_div_pow]

/-! ### The seed finalizer (R75) -/

/-- A stage of the finalizer: a word and its own shift. -/
def xorShift (k : Nat) (z : Word) : Word := z ^^^ (z >>> k)

/-- The finalizer's five stages. -/
theorem fmix_stages (z : Word) :
    fmix z = xorShift 31 (xorShift 27 (xorShift 30 z * Config.mul1) * Config.mul2) := rfl

/-- A word equal to its own shift has no highest bit. -/
theorem eq_zero_of_eq_ushiftRight {x : Word} {k : Nat} (hk : 0 < k) (h : x = x >>> k) : x = 0 := by
  have hdiv : x.toNat = x.toNat / 2 ^ k := by
    rw [← Nat.shiftRight_eq_div_pow, ← BitVec.toNat_ushiftRight, ← h]
  by_contra hne
  have hpos : 0 < x.toNat := Nat.pos_of_ne_zero fun hz => hne (BitVec.eq_of_toNat_eq hz)
  exact absurd hdiv (Nat.ne_of_gt (Nat.div_lt_self hpos (Nat.one_lt_two_pow (Nat.ne_of_gt hk))))

/-- Words that a stage takes to one word differ by a word equal to its own shift. -/
theorem xorShift_injective {k : Nat} (hk : 0 < k) : Function.Injective (xorShift k) := by
  intro z w h
  have hdiff : z ^^^ w = (z ^^^ w) >>> k := by
    rw [BitVec.ushiftRight_xor_distrib, ← BitVec.xor_eq_zero_iff]
    rw [xorShift, xorShift, ← BitVec.xor_eq_zero_iff] at h
    rw [← h]
    ac_rfl
  exact BitVec.xor_eq_zero_iff.mp (eq_zero_of_eq_ushiftRight hk hdiff)

/-- A factor with an inverse modulo `2 ^ 64` can be cancelled. -/
theorem mul_left_injective_of_inverse (m n : Word) (h : m * n = 1) : Function.Injective fun z : Word => z * m := by
  intro z w hzw
  have hcancel : ∀ x : Word, x * m * n = x := fun x => by rw [BitVec.mul_assoc, h]; exact BitVec.mul_one x
  rw [← hcancel z, ← hcancel w]
  exact congrArg (· * n) hzw

/-- Three stages of this kind and two products, each with an inverse factor, written out. -/
theorem fmix_injective : Function.Injective fmix := by
  have hmul1 := mul_left_injective_of_inverse Config.mul1 0x96de1b173f119089 (by decide)
  have hmul2 := mul_left_injective_of_inverse Config.mul2 0x319642b2d24d8ec3 (by decide)
  exact (xorShift_injective (by decide)).comp (hmul2.comp ((xorShift_injective (by decide)).comp
    (hmul1.comp (xorShift_injective (by decide)))))

/-- The word of a number modulo `2 ^ 64` that is a product of words is the product. -/
theorem eq_mul_of_toNat {x y m : Word} (h : y.toNat = x.toNat * m.toNat % 2 ^ 64) : y = x * m :=
  BitVec.eq_of_toNat_eq (h.trans (BitVec.toNat_mul x m).symm)

/-! ### The pool of a seed (R76) -/

/-- One position on and one seed on add up alike, as long as the next position is an index too. -/
theorem stepIndex_setWidth_add_one (n : Nat) (h : n < 255) (v : Word) :
    (stepIndex n).setWidth 64 + (v + 1) = (stepIndex (n + 1)).setWidth 64 + v := by
  apply BitVec.eq_of_toNat_eq
  simp only [BitVec.toNat_add, BitVec.toNat_setWidth, stepIndex_toNat n (by omega), stepIndex_toNat (n + 1) (by omega),
    BitVec.ofNat_eq_ofNat, BitVec.toNat_ofNat]
  omega

/-- The first word of its pool gives a seed away. -/
theorem poolFill_injective {v w : Word} (h : poolFill v = poolFill w) : v = w := by
  have hword : readWord (poolFill v) 0 = readWord (poolFill w) 0 := by rw [h]
  rw [readWord_poolFill, readWord_poolFill] at hword
  exact (BitVec.add_right_inj _).mp (fmix_injective hword)

end Sys2Proof.Machine

namespace Sys2Proof.Proofs

open Sys2Proof.Machine

/-- Settles O15: the partner by `partnerIndex_eq_xor`, and both lookups as the low 8 bits of a shifted word. -/
theorem indexForms : Obligations.IndexForms := by
  unfold Obligations.IndexForms
  exact ⟨fun i => ⟨partnerIndex_eq_xor i, partnerIndex_toNat i⟩,
    fun x => ⟨idx8_ushiftRight x 3, idx8_ushiftRight_toNat x 3⟩,
    fun y => ⟨idx8_ushiftRight y 11, idx8_ushiftRight_toNat y 11⟩⟩

/-- Settles O17: each byte is a digit of the word in base 256, and a word has eight digits. -/
theorem outputBytesLittleEndian : Obligations.OutputBytesLittleEndian := by
  unfold Obligations.OutputBytesLittleEndian
  refine fun w => ⟨fun k => outputBytes_getElem w k k.isLt, ?sum⟩
  case sum =>
    have hw : w.toNat < 2 ^ 64 := w.isLt
    simp only [outputBytes_toNat]
    omega

/-- Settles O18: `srcRead_full` for a source with 2048 bytes, and one lemma for each ending of a shorter one. -/
theorem sourceOutcomes : Obligations.SourceOutcomes := by
  unfold Obligations.SourceOutcomes
  refine fun bytes ending => ⟨fun h => ⟨_, seedBlock_toList ⟨bytes, ending⟩ h, srcRead_full _ h⟩, fun h => ?tooFew⟩
  case tooFew =>
    have hfew : ¬ Config.seedBytes ≤ bytes.length := Nat.not_le_of_lt h
    exact ⟨srcRead_short ⟨bytes, .ended⟩ hfew rfl, fun info => srcRead_fault ⟨bytes, .failed info⟩ info hfew rfl,
      srcRead_never ⟨bytes, .silent⟩ hfew rfl⟩

/-- Settles O19: the two products on numbers are the products of `fmix_stages`. -/
theorem finalizerStages : Obligations.FinalizerStages := by
  unfold Obligations.FinalizerStages
  refine ⟨fun z z1 z2 z3 z4 h1 h2 h3 h4 => ?stages, by decide, by decide⟩
  case stages =>
    have hz2 : z2 = z1 * Config.mul1 := eq_mul_of_toNat h2
    have hz4 : z4 = z3 * Config.mul2 := eq_mul_of_toNat h4
    rw [hz4, h3, hz2, h1, fmix_stages]
    rfl

/-- Settles O20: each stage is one to one (`fmix_injective`), and on the finite type of words that is enough. -/
theorem finalizerBijective : Obligations.FinalizerBijective := by
  unfold Obligations.FinalizerBijective
  have hzero : fmix 0 = 0 := by decide
  refine ⟨fmix_injective.bijective_of_finite, fun z => ⟨fun h => ?onlyZero, fun h => by rw [h, hzero]⟩⟩
  case onlyZero => exact fmix_injective (h.trans hzero.symm)

/-- Settles O21: word by word by `readWord_poolFill`; the overlap moves one from the seed to the position. -/
theorem poolOfSeed : Obligations.PoolOfSeed := by
  unfold Obligations.PoolOfSeed
  refine ⟨readWord_poolFill, fun v n hn => ?overlap, fun _ _ => poolFill_injective⟩
  case overlap => rw [readWord_poolFill, readWord_poolFill, stepIndex_setWidth_add_one n hn]

/-- Settles O22: the formulas are the definition's, but for the second form of the first, and the table is evaluated. -/
theorem accumulatorMix : Obligations.AccumulatorMix := by
  unfold Obligations.AccumulatorMix
  exact ⟨fun a => ⟨rfl, BitVec.not_xor_left.symm, rfl, rfl, rfl⟩, by decide⟩

end Sys2Proof.Proofs
end

section
/-! A pass in place (R96), and the last word of its block (R14, R78). -/

namespace Sys2Proof.Machine

/-- The mix steps from `m` to `n` write no word, of the pool or the block, outside positions `m` to `n - 1`. -/
theorem mixSteps_frame (e : Engine) {m n j : Nat} (hmn : m ≤ n) (hn : n ≤ 256) (hj : j < 256) (hout : j < m ∨ n ≤ j) :
    readWord (mixSteps n e).buf (stepIndex j) = readWord (mixSteps m e).buf (stepIndex j) ∧
    readWord (mixSteps n e).out (stepIndex j) = readWord (mixSteps m e).out (stepIndex j) := by
  induction n, hmn using Nat.le_induction with
  | base => exact ⟨rfl, rfl⟩
  | succ n hmn ih =>
    have hne : stepIndex j ≠ stepIndex n := stepIndex_ne j n hj hn (by omega)
    rw [mixSteps_succ, readWord_mixStep_buf_ne _ _ _ hne, readWord_mixStep_out_ne _ _ _ hne]
    exact ih (by omega) (by omega)

/-- A pass writes its last `b` to the last position of the block. -/
theorem lastWordIsB_shuffle (e : Engine) : LastWordIsB (shuffle e) := by
  have hlast : readWord (shuffle e).out (stepIndex 255) = (shuffle e).b := by
    rw [shuffle_out, shuffle_b]
    exact readWord_mixSteps_out_of_lt (prologue e) 255 256 (by decide) (Nat.le_refl 256)
  exact hlast.symm

/-- The cursor has no part in it. -/
theorem lastWordIsB_setCursor (e : Engine) (k : Fin 257) : LastWordIsB { e with cursor := k } ↔ LastWordIsB e := Iff.rfl

/-- At reset both are 0 (R23). -/
theorem lastWordIsB_reset : LastWordIsB Engine.reset := (readWord_replicate 0 255).symm

end Sys2Proof.Machine

namespace Sys2Proof.Proofs

open Sys2Proof.Machine

/-- Settles O25: the steps below `n` write below `n` only, and the steps from `n` on never below. -/
theorem passInPlace : Obligations.PassInPlace := by
  unfold Obligations.PassInPlace
  refine fun e n j hn hj => ⟨fun hold => mixSteps_frame e (Nat.zero_le n) hn hj (.inr hold), fun hnew => ?done⟩
  case done =>
    obtain ⟨hbuf, hout⟩ := mixSteps_frame e hn (Nat.le_refl 256) hj (.inl hnew)
    exact ⟨hbuf.symm, hout.symm⟩

/-- Settles O56: the block of the reset state is zero, as its `b` is. -/
theorem lastWordAtReset : Obligations.LastWordAtReset := lastWordIsB_reset

end Sys2Proof.Proofs
end

section
/-! What each seeding leaves (R78, R81 to R83, R86): the engine depends on the pool alone, and a source that failed has
lost some of its bytes. -/

namespace Sys2Proof.Machine

/-! ### A source that failed (R82, R83, D9) -/

/-- How many bytes a failed request took: the free value, brought into 0 to the bytes available. -/
def bytesLost (src : ByteSource) (draw : Nat) : Nat := Config.sourceConsumedOnFail draw % (src.bytes.length + 1)

theorem bytesLost_le (src : ByteSource) (draw : Nat) : bytesLost src draw ≤ src.bytes.length :=
  Nat.le_of_lt_succ (Nat.mod_lt _ (Nat.succ_pos _))

theorem sourceAfterFailedRead_of_ended (src : ByteSource) (draw : Nat) (h : src.ending = .ended) :
    sourceAfterFailedRead src draw = { bytes := src.bytes.drop (bytesLost src draw), ending := .ended } := by
  simp only [sourceAfterFailedRead, h, bytesLost]

theorem sourceAfterFailedRead_of_failed (src : ByteSource) (draw : Nat) (info : Word) (h : src.ending = .failed info) :
    sourceAfterFailedRead src draw =
      { bytes := src.bytes.drop (bytesLost src draw) ++ (Config.sourceAfterFault draw).bytes,
        ending := (Config.sourceAfterFault draw).ending } := by
  simp only [sourceAfterFailedRead, h, bytesLost]

/-! ### The engine after a seeding (R78, R86) -/

/-- A seeding gives `buf`, `a`, `b` and `c`, all that its pass reads. -/
theorem seedWith_forgets (pool : Table) (e e' : Engine) : seedWith pool e = seedWith pool e' :=
  shuffle_congr rfl rfl rfl rfl

theorem seedWith_c (pool : Table) (e : Engine) : (seedWith pool e).c = 1 := shuffle_c _

theorem seedWith_cursor (pool : Table) (e : Engine) : (seedWith pool e).cursor = 0 := shuffle_cursor _

theorem lastWordIsB_seedWith (pool : Table) (e : Engine) : LastWordIsB (seedWith pool e) := lastWordIsB_shuffle _

/-- With a pool of zeros a seeding is a pass from reset. -/
theorem seedWith_zero (e : Engine) : seedWith (Vector.replicate 256 0) e = shuffle Engine.reset :=
  shuffle_congr rfl rfl rfl rfl

/-! ### The pool of a byte source (R81) -/

/-- A request looks at the first 2048 bytes only. -/
theorem seedBlock_congr {src src' : ByteSource} (h : Config.seedBytes ≤ src.bytes.length)
    (h' : Config.seedBytes ≤ src'.bytes.length) (htake : src.bytes.take 2048 = src'.bytes.take 2048) :
    seedBlock src h = seedBlock src' h' :=
  Vector.toList_inj.mp htake

/-- Zero bytes make zero words. -/
theorem loadPool_zero : loadPool (Vector.replicate 2048 0) = Vector.replicate 256 0 := by
  refine table_ext _ _ fun i => BitVec.eq_of_toNat_eq ?_
  rw [readWord_loadPool, readWord_replicate, leWord_toNat]
  simp only [Vector.getElem_replicate]
  rfl

end Sys2Proof.Machine

namespace Sys2Proof.Proofs

open Sys2Proof.Machine

/-- Settles O32: the bytes gone are `bytesLost` of the source, which stays ended. -/
theorem seedFromShortAnswers : Obligations.SeedFromShortAnswers := by
  unfold Obligations.SeedFromShortAnswers
  intro s hlen hend
  refine ⟨bytesLost s.source s.draws, bytesLost_le _ _, ?_⟩
  rw [exec_seedFrom_of_short s _ (srcRead_short _ (Nat.not_le_of_lt hlen) hend),
    ← sourceAfterFailedRead_of_ended _ _ hend]
  rfl

/-- Settles O33: the bytes gone are `bytesLost` of the source, and the free source follows those left. -/
theorem seedFromFaultAnswers : Obligations.SeedFromFaultAnswers := by
  unfold Obligations.SeedFromFaultAnswers
  intro s info hlen hend
  refine ⟨bytesLost s.source s.draws, bytesLost_le _ _, ?_⟩
  rw [exec_seedFrom_of_fault s _ info (srcRead_fault _ info (Nat.not_le_of_lt hlen) hend),
    ← sourceAfterFailedRead_of_failed _ _ info hend]
  rfl

/-- Settles O35: each seeding leaves `seedWith` of a pool that the seed alone gives (`seedWith_forgets`). -/
theorem seedingForgetsThePast : Obligations.SeedingForgetsThePast := by
  unfold Obligations.SeedingForgetsThePast
  refine ⟨fun value s s' => ?seed, fun s s' hfull hfull' htake => ?seedFrom⟩
  case seed =>
    exact ⟨_, _, _, _, exec_seed value s, exec_seed value s', rfl, exec_seed value _, seedWith_forgets _ _ _,
      seedWith_forgets _ _ _⟩
  case seedFrom =>
    have hread' : srcRead s'.source = .full (seedBlock s.source hfull) := by
      rw [srcRead_full _ hfull', seedBlock_congr hfull hfull' htake]
    exact ⟨_, _, _, _, exec_seedFrom_of_full s _ (srcRead_full _ hfull), exec_seedFrom_of_full s' _ hread', rfl,
      exec_seedFrom_of_full (complete Engine.reset (.ok 0) s) _ (srcRead_full _ hfull), seedWith_forgets _ _ _,
      seedWith_forgets _ _ _⟩

/-- Settles O36: the three facts hold of `seedWith` of any pool. -/
theorem afterSeeding : Obligations.AfterSeeding := by
  unfold Obligations.AfterSeeding
  have hseedWith : ∀ pool e, (seedWith pool e).c = 1 ∧ (seedWith pool e).cursor.val = 0 ∧
      (seedWith pool e).b = readWord (seedWith pool e).out 255 := fun pool e =>
    ⟨seedWith_c pool e, congrArg Fin.val (seedWith_cursor pool e), lastWordIsB_seedWith pool e⟩
  exact ⟨fun value s => ⟨_, exec_seed value s, hseedWith _ _⟩,
    fun s hfull => ⟨_, exec_seedFrom_of_full s _ (srcRead_full _ hfull), hseedWith _ _⟩⟩

/-- Settles O37: the pool of zero bytes is the reset pool (`loadPool_zero`, `seedWith_zero`). -/
theorem zeroBytesAreUnseeded : Obligations.ZeroBytesAreUnseeded := by
  unfold Obligations.ZeroBytesAreUnseeded
  intro s hzero
  have hfull : Config.seedBytes ≤ s.source.bytes.length := by
    have hlen := congrArg List.length hzero
    rw [List.length_take, List.length_replicate] at hlen
    exact min_eq_left_iff.mp hlen
  have hblock : seedBlock s.source hfull = Vector.replicate 2048 0 :=
    Vector.toList_inj.mp (hzero.trans Vector.toList_replicate.symm)
  refine ⟨_, exec_seedFrom_of_full s _ (srcRead_full _ hfull), ?_⟩
  rw [complete_engine, hblock, loadPool_zero, seedWith_zero]

end Sys2Proof.Proofs
end

section
/-! One step (R6 to R8, R39, R43, R149, R150): what the host's next input is, what the step answers to it, and what it
does to the engine. -/

namespace Sys2Proof.Machine

/-! ### The host's next input -/

/-- What the host does next: nothing, one of its two actions that are no command, a command, or a reserved word. -/
inductive NextInput (s : State) : Prop
  | idle (hin : s.inputs = [])
  | reset {rest : List HostInput} (hin : s.inputs = .reset :: rest)
  | supply {src : ByteSource} {rest : List HostInput} (hin : s.inputs = .supply src :: rest)
  | command {i : Instr} (hnext : NextCommand i s)
  | reserved (hnext : NextReserved s)

theorem nextInput (s : State) : NextInput s := by
  match hin : s.inputs with
  | [] => exact .idle hin
  | .reset :: _ => exact .reset hin
  | .supply _ :: _ => exact .supply hin
  | .command w :: rest =>
    match hdecode : decode w with
    | .instr _ => exact .command ⟨w, rest, hin, hdecode⟩
    | .reserved op => exact .reserved ⟨w, rest, op, hin, hdecode⟩

theorem step_of_idle {s : State} (hin : s.inputs = []) : step s = .next s := by
  simp only [step, hin]

theorem step_of_reset {s : State} {rest : List HostInput} (hin : s.inputs = .reset :: rest) :
    step s = .next (hostReset s) := by
  simp only [step, hin]

theorem step_of_supply {s : State} {src : ByteSource} {rest : List HostInput} (hin : s.inputs = .supply src :: rest) :
    step s = .next (hostSupply src s) := by
  simp only [step, hin]

theorem step_of_nextCommand {i : Instr} {s : State} (hnext : NextCommand i s) : step s = exec i s := by
  obtain ⟨w, rest, hin, hdecode⟩ := hnext
  simp only [step, hin, hdecode]

theorem step_of_nextReserved {s : State} (hnext : NextReserved s) : step s = .next (reservedCommand s) := by
  obtain ⟨w, rest, op, hin, hdecode⟩ := hnext
  simp only [step, hin, hdecode]

/-! ### The answer of a step: a function of the input, the byte source and the next word of the stream -/

/-- The answer to a `SEED_FROM`, by the outcome of its request (R81 to R84). -/
def requestAnswer : SrcOutcome → Option Response
  | .full _ => some (.ok 0)
  | .short _ => some .shortRead
  | .fault _ info => some (.sourceFault info)
  | .never => none

/-- The answer to a command, `w` being the next word of the stream. -/
def execAnswer (i : Instr) (src : ByteSource) (w : Word) : Option Response :=
  match i with
  | .new => some (.ok 0)
  | .seed _ => some (.ok 0)
  | .seedFrom => requestAnswer (srcRead src)
  | .nextUint64 => some (.ok w)
  | .nextInt63 => some (.ok (w >>> 1))

/-- The answer to a command word: a reserved one is illegal (R55). -/
def decodedAnswer (d : Decoded) (src : ByteSource) (w : Word) : Option Response :=
  match d with
  | .instr i => execAnswer i src w
  | .reserved _ => some .illegalCmd

/-- The answer of a step, by the host's inputs: only a command word has one (R39, R150). -/
def stepAnswer (inputs : List HostInput) (src : ByteSource) (w : Word) : Option Response :=
  match inputs with
  | .command cw :: _ => decodedAnswer (decode cw) src w
  | _ => none

theorem stepAnswer_of_nextCommand {i : Instr} {s : State} (hnext : NextCommand i s) (src : ByteSource) (w : Word) :
    stepAnswer s.inputs src w = execAnswer i src w := by
  obtain ⟨cw, rest, hin, hdecode⟩ := hnext
  simp only [stepAnswer, hin, hdecode, decodedAnswer]

theorem stepAnswer_of_nextReserved {s : State} (hnext : NextReserved s) (src : ByteSource) (w : Word) :
    stepAnswer s.inputs src w = some .illegalCmd := by
  obtain ⟨cw, rest, op, hin, hdecode⟩ := hnext
  simp only [stepAnswer, hin, hdecode, decodedAnswer]

/-- The commands that are no extraction show nothing of the stream. -/
theorem execAnswer_congr {i : Instr} (hi : isExtraction i = false) (src : ByteSource) (w w' : Word) :
    execAnswer i src w = execAnswer i src w' := by
  cases i with
  | new | seed value | seedFrom => rfl
  | nextUint64 | nextInt63 => cases hi

/-- Only a `SEED_FROM` that waits has no answer (R84). -/
theorem execAnswer_eq_none {i : Instr} {src : ByteSource} {w : Word} (h : execAnswer i src w = none) :
    i = .seedFrom ∧ srcRead src = .never := by
  cases i with
  | new | seed value | nextUint64 | nextInt63 => cases h
  | seedFrom =>
    refine ⟨rfl, ?_⟩
    rw [execAnswer] at h
    cases hread : srcRead src with
    | never => rfl
    | full d | short n | fault n info => rw [hread] at h; cases h

/-- A command ends in a next state with its answer, and if it has one the host's next input is due. -/
theorem exec_next (i : Instr) (s : State) : ∃ t, exec i s = .next t ∧
    t.responses = s.responses ++ (execAnswer i s.source (extract s.engine).1).toList ∧
    (¬ (i = .seedFrom ∧ srcRead s.source = .never) → t.inputs = s.inputs.tail) := by
  cases i with
  | new => exact ⟨_, rfl, rfl, fun _ => rfl⟩
  | seed value => exact ⟨_, exec_seed value s, rfl, fun _ => rfl⟩
  | nextUint64 => exact ⟨_, exec_extraction .nextUint64 s rfl, rfl, fun _ => rfl⟩
  | nextInt63 => exact ⟨_, exec_extraction .nextInt63 s rfl, rfl, fun _ => rfl⟩
  | seedFrom =>
    rw [execAnswer]
    cases hread : srcRead s.source with
    | full d => exact ⟨_, exec_seedFrom_of_full s d hread, rfl, fun _ => rfl⟩
    | short n => exact ⟨_, exec_seedFrom_of_short s n hread, rfl, fun _ => rfl⟩
    | fault n info => exact ⟨_, exec_seedFrom_of_fault s n info hread, rfl, fun _ => rfl⟩
    | never => exact ⟨s, exec_seedFrom_of_never s hread, (List.append_nil _).symm, fun h => absurd ⟨rfl, rfl⟩ h⟩

/-- Every step ends in a next state with its answer, and takes the host's next input unless it waits. -/
theorem step_next (s : State) : ∃ t, step s = .next t ∧
    t.responses = s.responses ++ (stepAnswer s.inputs s.source (extract s.engine).1).toList ∧
    (¬ Waiting s → t.inputs = s.inputs.tail) := by
  cases nextInput s with
  | idle hin =>
    rw [hin]
    exact ⟨s, step_of_idle hin, (List.append_nil _).symm, fun _ => hin⟩
  | reset hin => exact ⟨_, step_of_reset hin, by rw [hin]; exact (List.append_nil _).symm, fun _ => rfl⟩
  | supply hin => exact ⟨_, step_of_supply hin, by rw [hin]; exact (List.append_nil _).symm, fun _ => rfl⟩
  | reserved hnext =>
    rw [stepAnswer_of_nextReserved hnext]
    exact ⟨_, step_of_nextReserved hnext, rfl, fun _ => rfl⟩
  | @command i hnext =>
    obtain ⟨t, hexec, hresponses, hinputs⟩ := exec_next i s
    rw [stepAnswer_of_nextCommand hnext]
    refine ⟨t, (step_of_nextCommand hnext).trans hexec, hresponses, fun hwait => hinputs ?_⟩
    rintro ⟨rfl, hnever⟩
    exact hwait ⟨hnext, hnever⟩

theorem step_responses {s t : State} (h : step s = .next t) :
    t.responses = s.responses ++ (stepAnswer s.inputs s.source (extract s.engine).1).toList := by
  obtain ⟨u, hstep, hresponses, -⟩ := step_next s
  cases hstep.symm.trans h
  exact hresponses

/-- A command word is answered unless it is a `SEED_FROM` that waits. -/
theorem stepAnswer_of_command {s : State} {cw : CommandWord} {rest : List HostInput}
    (hin : s.inputs = .command cw :: rest) (hwait : ¬ Waiting s) (w : Word) :
    ∃ r, stepAnswer s.inputs s.source w = some r := by
  cases hdecode : decode cw with
  | reserved op => exact ⟨_, stepAnswer_of_nextReserved ⟨cw, rest, op, hin, hdecode⟩ s.source w⟩
  | instr i =>
    have hnext : NextCommand i s := ⟨cw, rest, hin, hdecode⟩
    rw [stepAnswer_of_nextCommand hnext, ← Option.ne_none_iff_exists']
    intro hnone
    obtain ⟨rfl, hnever⟩ := execAnswer_eq_none hnone
    exact hwait ⟨hnext, hnever⟩

/-! ### The causes of the errors (R120) -/

/-- The condition an error response carries. -/
def conditionOf : Response → Option ErrorCondition
  | .ok _ => none
  | .shortRead => some .shortRead
  | .sourceFault info => some (.sourceFault info)
  | .illegalCmd => some .illegalCmd

theorem conditionOf_errorResponse (err : ErrorCondition) : conditionOf (errorResponse err) = some err := by
  cases err <;> rfl

theorem errorResponse_injective {err err' : ErrorCondition} (h : errorResponse err = errorResponse err') :
    err = err' := by
  rw [← Option.some_inj, ← conditionOf_errorResponse, h, conditionOf_errorResponse]

theorem errorResponse_ne_ok (err : ErrorCondition) (d : Word) : errorResponse err ≠ .ok d := fun h => by
  have hcondition := conditionOf_errorResponse err
  rw [h] at hcondition
  cases hcondition

theorem stepAnswer_of_errorCause {s : State} {err : ErrorCondition} (hcause : ErrorCause s err) (w : Word) :
    stepAnswer s.inputs s.source w = some (errorResponse err) := by
  cases err with
  | illegalCmd => exact stepAnswer_of_nextReserved hcause s.source w
  | shortRead =>
    obtain ⟨hnext, hlen, hend⟩ := hcause
    rw [stepAnswer_of_nextCommand hnext, execAnswer, srcRead_short _ (Nat.not_le_of_lt hlen) hend]
    rfl
  | sourceFault info =>
    obtain ⟨hnext, hlen, hend⟩ := hcause
    rw [stepAnswer_of_nextCommand hnext, execAnswer, srcRead_fault _ info (Nat.not_le_of_lt hlen) hend]
    rfl

/-- The response of a step is that of an error exactly when the error has its cause. -/
theorem eq_errorResponse_iff {s t : State} {r : Response} (hstep : step s = .next t)
    (hr : t.responses = s.responses ++ [r]) (err : ErrorCondition) : r = errorResponse err ↔ ErrorCause s err := by
  constructor
  · rintro rfl
    obtain ⟨err', hcause, heq, -, -⟩ := step_error hstep hr (errorResponse_ne_ok err)
    rwa [errorResponse_injective heq]
  · intro hcause
    have hresponses := step_responses hstep
    rw [stepAnswer_of_errorCause hcause, hr, List.append_cancel_left_eq] at hresponses
    exact List.singleton_inj.mp hresponses

/-! ### Inputs that need no byte source, and waiting (R84, R149) -/

theorem not_waiting_of_needsNoSource {s : State} {input : HostInput} {rest : List HostInput}
    (hin : s.inputs = input :: rest) (h : needsNoSource input = true) : ¬ Waiting s := by
  rintro ⟨⟨w, rest', hin', hdecode⟩, -⟩
  obtain ⟨rfl, -⟩ := List.cons.inj (hin.symm.trans hin')
  rw [needsNoSource, hdecode] at h
  exact absurd h (by decide)

/-- Such an input is taken in one step, and has a response if it is a command word. -/
theorem step_needsNoSource {s : State} {input : HostInput} {rest : List HostInput} (hin : s.inputs = input :: rest)
    (h : needsNoSource input = true) : ∃ t rs, step s = .next t ∧ t.inputs = rest ∧ t.responses = s.responses ++ rs ∧
      rs.length = [input].countP isCommand := by
  have hwait := not_waiting_of_needsNoSource hin h
  obtain ⟨t, hstep, hresponses, hinputs⟩ := step_next s
  refine ⟨t, _, hstep, (hinputs hwait).trans (by rw [hin]; rfl), hresponses, ?_⟩
  cases input with
  | reset => rw [hin]; rfl
  | supply src => rw [hin]; rfl
  | command cw =>
    obtain ⟨r, hr⟩ := stepAnswer_of_command hin hwait (extract s.engine).1
    rw [hr]
    rfl

theorem runs_needsNoSource (inputs : List HostInput) (s : State) (hin : s.inputs = inputs)
    (h : ∀ input ∈ inputs, needsNoSource input = true) : ∃ t rs, runs inputs.length s = .next t ∧ t.inputs = [] ∧
      t.responses = s.responses ++ rs ∧ rs.length = inputs.countP isCommand := by
  induction inputs generalizing s with
  | nil => exact ⟨s, [], runs_zero s, hin, (List.append_nil _).symm, rfl⟩
  | cons input rest ih =>
    obtain ⟨hinput, hrest⟩ := List.forall_mem_cons.mp h
    obtain ⟨u, rs, hstep, hinputs, hresponses, hlen⟩ := step_needsNoSource hin hinput
    obtain ⟨t, rs', hrun, hdone, hresponses', hlen'⟩ := ih u hinputs hrest
    refine ⟨t, rs ++ rs', (runs_succ _ s u hstep).trans hrun, hdone, ?_, ?_⟩
    · rw [hresponses', hresponses, List.append_assoc]
    · rw [List.length_append, hlen, hlen', ← List.countP_append, List.singleton_append]

theorem step_of_waiting {s : State} (h : Waiting s) : step s = .next s := by
  obtain ⟨hnext, hnever⟩ := h
  rw [step_of_nextCommand hnext, exec_seedFrom_of_never s hnever]

theorem runs_of_waiting {s : State} (h : Waiting s) (n : Nat) : runs n s = .next s := by
  induction n with
  | zero => exact runs_zero s
  | succ n ih => rw [runs_succ n s s (step_of_waiting h), ih]

/-! ### What a step can do to the engine (R43) -/

/-- A `SEED_FROM` leaves the engine as it was unless its request is full. -/
theorem exec_seedFrom_engine {s t : State} (h : exec .seedFrom s = .next t) :
    t.engine = s.engine ∨ ∃ d, srcRead s.source = .full d ∧ t.engine = seedWith (loadPool d) s.engine := by
  cases hread : srcRead s.source with
  | full d => cases (exec_seedFrom_of_full s d hread).symm.trans h; exact .inr ⟨d, rfl, rfl⟩
  | short n => cases (exec_seedFrom_of_short s n hread).symm.trans h; exact .inl rfl
  | fault n info => cases (exec_seedFrom_of_fault s n info hread).symm.trans h; exact .inl rfl
  | never => cases (exec_seedFrom_of_never s hread).symm.trans h; exact .inl rfl

/-- An extraction moves the cursor on by one, after a pass if it is at 256. -/
theorem exec_extraction_engine {i : Instr} {s t : State} (hi : isExtraction i = true) (h : exec i s = .next t) :
    (s.engine.cursor.val < 256 ∧ t.engine = { s.engine with cursor := s.engine.cursor + 1 }) ∨
    (s.engine.cursor.val = 256 ∧ t.engine = { shuffle s.engine with cursor := 1 }) := by
  cases (exec_extraction i s hi).symm.trans h
  rw [complete_engine]
  by_cases hlt : s.engine.cursor.val < 256
  · have hnext : (⟨s.engine.cursor.val + 1, Nat.succ_lt_succ hlt⟩ : Fin 257) = s.engine.cursor + 1 :=
      Fin.ext (Fin.val_add_one_of_lt hlt).symm
    rw [extract_buffered _ hlt, hnext]
    exact .inl ⟨hlt, rfl⟩
  · have hcursor : s.engine.cursor.val = 256 :=
      Nat.le_antisymm (Nat.le_of_lt_succ s.engine.cursor.isLt) (Nat.le_of_not_lt hlt)
    rw [extract_exhausted _ (Fin.ext hcursor)]
    exact .inr ⟨hcursor, rfl⟩

end Sys2Proof.Machine

namespace Sys2Proof.Proofs

open Sys2Proof.Machine

/-- Settles O53: the host's actions and a reserved word by their steps, and each command by what it does to the
engine. -/
theorem engineWriters : Obligations.EngineWriters := by
  unfold Obligations.EngineWriters
  intro s t hstep
  cases nextInput s with
  | idle hin => cases (step_of_idle hin).symm.trans hstep; exact .inl rfl
  | supply hin => cases (step_of_supply hin).symm.trans hstep; exact .inl rfl
  | reserved hnext => cases (step_of_nextReserved hnext).symm.trans hstep; exact .inl rfl
  | reset hin =>
    cases (step_of_reset hin).symm.trans hstep
    exact .inr (.inl ⟨.inr (by rw [hin]; rfl), rfl⟩)
  | @command i hnext =>
    rw [step_of_nextCommand hnext] at hstep
    cases i with
    | new => cases hstep; exact .inr (.inl ⟨.inl hnext, rfl⟩)
    | seed value =>
      cases (exec_seed value s).symm.trans hstep
      exact .inr (.inr (.inl ⟨value, hnext, rfl⟩))
    | seedFrom =>
      obtain hsame | ⟨d, hread, hseed⟩ := exec_seedFrom_engine hstep
      · exact .inl hsame
      · exact .inr (.inr (.inr (.inl ⟨d, hnext, hread, hseed⟩)))
    | nextUint64 =>
      obtain hmoved | hpass := exec_extraction_engine rfl hstep
      · exact .inr (.inr (.inr (.inr (.inl ⟨.inl hnext, hmoved⟩))))
      · exact .inr (.inr (.inr (.inr (.inr ⟨.inl hnext, hpass⟩))))
    | nextInt63 =>
      obtain hmoved | hpass := exec_extraction_engine rfl hstep
      · exact .inr (.inr (.inr (.inr (.inl ⟨.inr hnext, hmoved⟩))))
      · exact .inr (.inr (.inr (.inr (.inr ⟨.inr hnext, hpass⟩))))

/-- Settles O55: of what a step can do to the engine (`engineWriters`), a pass and a clearing make the two words equal,
and the rest touches neither. -/
theorem lastWordKept : Obligations.LastWordKept := by
  unfold Obligations.LastWordKept
  intro s t hkept hstep
  obtain hsame | ⟨-, hreset⟩ | ⟨value, -, hseed⟩ | ⟨d, -, -, hseed⟩ | ⟨-, -, hmoved⟩ | ⟨-, -, hpass⟩ :=
    engineWriters s t hstep
  · rwa [hsame]
  · rw [hreset]; exact lastWordIsB_reset
  · rw [hseed]; exact lastWordIsB_shuffle _
  · rw [hseed]; exact lastWordIsB_shuffle _
  · rw [hmoved]; exact (lastWordIsB_setCursor _ _).mpr hkept
  · rw [hpass]; exact (lastWordIsB_setCursor _ _).mpr (lastWordIsB_shuffle _)

/-- Settles O34: a state that waits steps to itself, any number of times. -/
theorem seedFromWaits : Obligations.SeedFromWaits := fun _ n h => runs_of_waiting h n

/-- Settles O49: each error is answered exactly when it has its cause (`eq_errorResponse_iff`). -/
theorem errorConditions : Obligations.ErrorConditions := by
  unfold Obligations.ErrorConditions
  exact fun s t r hstep hr => ⟨eq_errorResponse_iff hstep hr .shortRead,
    fun info => eq_errorResponse_iff hstep hr (.sourceFault info), eq_errorResponse_iff hstep hr .illegalCmd⟩

/-- Settles O50: a command word that does not wait has an answer (`stepAnswer_of_command`), which its step adds. -/
theorem oneResponsePerCommand : Obligations.OneResponsePerCommand := by
  unfold Obligations.OneResponsePerCommand
  intro s w rest hin hwait
  obtain ⟨t, hstep, hresponses, hinputs⟩ := step_next s
  obtain ⟨r, hr⟩ := stepAnswer_of_command hin hwait (extract s.engine).1
  rw [hr] at hresponses
  exact ⟨t, r, hstep, (hinputs hwait).trans (by rw [hin]; rfl), hresponses⟩

/-- Settles O52: by induction on the inputs, each taken in one step. -/
theorem commandsTerminate : Obligations.CommandsTerminate := fun s h => runs_needsNoSource s.inputs s rfl h

/-- Settles O54: the answer is a function of the inputs, the byte source and the next word (`step_responses`), of which
`NEXT_INT63` shifts out the lowest bit and a command that is no extraction makes no use. -/
theorem onlyTheNextWordShows : Obligations.OnlyTheNextWordShows := by
  unfold Obligations.OnlyTheNextWordShows
  intro s s' t t' hinputs hsource hresponses hstep hstep'
  rw [step_responses hstep, step_responses hstep', ← hinputs, ← hsource, ← hresponses]
  refine ⟨fun hword => by rw [hword], fun hnext hword => ?int63, fun huint64 hint63 => ?others⟩
  case int63 => rw [stepAnswer_of_nextCommand hnext, stepAnswer_of_nextCommand hnext, execAnswer, execAnswer, hword]
  case others =>
    cases nextInput s with
    | idle hin => rw [hin]; rfl
    | reset hin => rw [hin]; rfl
    | supply hin => rw [hin]; rfl
    | reserved hnext => rw [stepAnswer_of_nextReserved hnext, stepAnswer_of_nextReserved hnext]
    | @command i hnext =>
      have hi : isExtraction i = false := by
        rw [← Bool.not_eq_true, isExtraction_iff]
        rintro (rfl | rfl)
        · exact huint64 hnext
        · exact hint63 hnext
      rw [stepAnswer_of_nextCommand hnext, stepAnswer_of_nextCommand hnext, execAnswer_congr hi]

/-- Settles O10: the reset event is `hostReset`, and `NEW` leaves the engine it leaves. -/
theorem hostResetIsNew : Obligations.HostResetIsNew := by
  unfold Obligations.HostResetIsNew
  refine fun s rest hin => ⟨?_, _, rfl, rfl⟩
  rw [step_of_reset hin, hostReset, hin]
  rfl

/-- Settles O11: the state that `NEW` completes in, written out. -/
theorem newAnswers : Obligations.NewAnswers := fun _ => rfl

/-- Settles O12: the step of a host that does nothing. -/
theorem idleChangesNothing : Obligations.IdleChangesNothing := fun _ => step_of_idle

/-- Settles O13: the step is `hostSupply`. -/
theorem supplyTouchesNoEngine : Obligations.SupplyTouchesNoEngine := by
  unfold Obligations.SupplyTouchesNoEngine
  intro s src rest hin
  rw [step_of_supply hin, hostSupply, hin]
  rfl

/-- Settles O14: `step_of_nextCommand`. -/
theorem stepRunsDecoded : Obligations.StepRunsDecoded :=
  fun _ w rest _ hin hdecode => step_of_nextCommand ⟨w, rest, hin, hdecode⟩

/-- Settles O47: a word with such an opcode decodes to no command (`decode_eq_reserved_iff`). -/
theorem reservedAnswered : Obligations.ReservedAnswered := by
  unfold Obligations.ReservedAnswered
  intro s w rest hin hop
  have hreserved : decode w = .reserved (opField w) := (decode_eq_reserved_iff w _).mpr ⟨rfl, hop⟩
  rw [step_of_nextReserved ⟨w, rest, _, hin, hreserved⟩, reservedCommand, raise, complete, hin]
  rfl

/-- Settles O51: `step_next`. -/
theorem stepAlwaysAnswers : Obligations.StepAlwaysAnswers := fun s => by
  obtain ⟨t, hstep, -, -⟩ := step_next s
  exact ⟨t, hstep⟩

end Sys2Proof.Proofs
end

section
/-! The output stream (R71, R112) and the count of passes (R101, R130): the engine after any number of extractions, and
runs of extractions from a cursor at 0, from an exhausted block, and after whatever clears `c`. -/

namespace Sys2Proof.Machine

/-! ### Repeated passes (R101) -/

theorem passes_succ (n : Nat) (e : Engine) : passes (n + 1) e = shuffle (passes n e) := rfl

theorem passes_c (n : Nat) (e : Engine) : (passes n e).c = e.c + BitVec.ofNat 64 n := by
  induction n with
  | zero => exact (BitVec.add_zero e.c).symm
  | succ n ih => rw [passes_succ, shuffle_c, ih, BitVec.add_assoc, BitVec.ofNat_add]; rfl

theorem passes_shuffle (n : Nat) (e : Engine) : passes n (shuffle e) = passes (n + 1) e := by
  induction n with
  | zero => rfl
  | succ n ih => rw [passes_succ, ih, ← passes_succ]

/-! ### The engine after `t` extractions from a cursor at 0 (R112) -/

theorem cursorAfter_zero_lt (t : Nat) : cursorAfter 0 t < 257 := by
  unfold cursorAfter
  split <;> omega

/-- Word `t - 1` was the last one taken: of its block, with the cursor after it. -/
def streamEngine (e : Engine) (t : Nat) : Engine :=
  { passes ((t - 1) / 256) e with cursor := ⟨cursorAfter 0 t, cursorAfter_zero_lt t⟩ }

theorem streamEngine_zero (e : Engine) (h : e.cursor.val = 0) : streamEngine e 0 = e := by
  have hcursor : (⟨cursorAfter 0 0, cursorAfter_zero_lt 0⟩ : Fin 257) = e.cursor := Fin.ext h.symm
  rw [streamEngine, hcursor]
  rfl

theorem streamEngine_succ (e : Engine) (n : Nat) : streamEngine e (n + 1) =
    { passes (n / 256) e with cursor := ⟨n % 256 + 1, cursorAfter_zero_lt (n + 1)⟩ } := rfl

theorem streamEngine_c (e : Engine) (t : Nat) : (streamEngine e t).c = e.c + BitVec.ofNat 64 ((t - 1) / 256) :=
  passes_c _ e

/-- At a block boundary the block is exhausted, and the pass that follows gives the next block. -/
theorem extract_streamEngine_boundary (e : Engine) (n : Nat) (hn : 0 < n) (h : n % 256 = 0) :
    extract (streamEngine e n) =
      (readWord (passes (n / 256) e).out (stepIndex (n % 256)), streamEngine e (n + 1)) := by
  have hlast : cursorAfter 0 n = 256 := by
    rw [cursorAfter, if_neg (Nat.ne_of_gt hn)]
    omega
  have hcursor : (streamEngine e n).cursor = 256 := Fin.ext hlast
  have hblock : n / 256 = (n - 1) / 256 + 1 := by omega
  have hpass : shuffle (streamEngine e n) = passes (n / 256) e := by
    rw [hblock, passes_succ]
    exact shuffle_congr rfl rfl rfl rfl
  rw [extract_exhausted _ hcursor, hpass, streamEngine_succ, readWord_stepIndex _ _ (Nat.mod_lt n (by decide))]
  simp only [h]
  rfl

/-- Within a block the next word stands at the cursor. -/
theorem extract_streamEngine_within (e : Engine) (n : Nat) (h : n = 0 ∨ n % 256 ≠ 0) :
    extract (streamEngine e n) =
      (readWord (passes (n / 256) e).out (stepIndex (n % 256)), streamEngine e (n + 1)) := by
  have hcursor : cursorAfter 0 n = n % 256 := by
    unfold cursorAfter
    split <;> omega
  have hblock : (n - 1) / 256 = n / 256 := by omega
  have hlt : n % 256 < 256 := Nat.mod_lt n (by decide)
  rw [extract_buffered _ (hcursor.trans_lt hlt), streamEngine_succ, readWord_stepIndex _ _ hlt]
  simp only [streamEngine, hblock, hcursor]

/-- Extraction `n` takes word `n` of the stream. -/
theorem extract_streamEngine (e : Engine) (n : Nat) :
    extract (streamEngine e n) =
      (readWord (passes (n / 256) e).out (stepIndex (n % 256)), streamEngine e (n + 1)) := by
  by_cases h : 0 < n ∧ n % 256 = 0
  · obtain ⟨hn, hzero⟩ := h
    exact extract_streamEngine_boundary e n hn hzero
  · exact extract_streamEngine_within e n (by omega)

/-! ### Runs of extractions -/

theorem nextCommand_issue {i : Instr} {cmds : List Instr} {s : State} (hin : s.inputs = issue (i :: cmds)) :
    NextCommand i s := ⟨encode i, issue cmds, hin, decode_encode i⟩

/-- Extractions from the middle of a stream answer its next words in order. -/
theorem runs_streamEngine (cmds : List Instr) (e : Engine) (n : Nat) (s : State)
    (hcmds : ∀ i ∈ cmds, isExtraction i = true) (hin : s.inputs = issue cmds) (hengine : s.engine = streamEngine e n) :
    runs cmds.length s = .next
      { s with
        engine := streamEngine e (n + cmds.length)
        inputs := []
        responses := s.responses ++ cmds.mapIdx fun k => streamAnswer 0 e (n + k) } := by
  induction cmds generalizing n s with
  | nil =>
    have hnone : [] = s.inputs := hin.symm
    rw [List.length_nil, Nat.add_zero, ← hengine, hnone, List.mapIdx_nil, List.append_nil]
    rfl
  | cons i cmds ih =>
    obtain ⟨hi, hcmds⟩ := List.forall_mem_cons.mp hcmds
    have hstep : step s = .next (complete (streamEngine e (n + 1)) (streamAnswer 0 e n i) s) := by
      rw [step_of_nextCommand (nextCommand_issue hin), exec_extraction i s hi, hengine, extract_streamEngine,
        streamAnswer, Nat.zero_add]
    have hrest : (complete (streamEngine e (n + 1)) (streamAnswer 0 e n i) s).inputs = issue cmds := by
      rw [complete_inputs, hin]
      rfl
    rw [List.length_cons, runs_succ _ _ _ hstep, ih (n + 1) _ hcmds hrest rfl, List.mapIdx_cons, complete_responses,
      List.append_assoc]
    simp only [Nat.add_zero, Nat.add_assoc, Nat.add_comm 1]
    rfl

/-- The stream from a cursor at 0, where a seeding leaves it. -/
theorem runs_stream (cmds : List Instr) (s : State) (hcmds : ∀ i ∈ cmds, isExtraction i = true)
    (hin : s.inputs = issue cmds) (hcursor : s.engine.cursor.val = 0) :
    runs cmds.length s = .next
      { s with
        engine := streamEngine s.engine cmds.length
        inputs := []
        responses := s.responses ++ cmds.mapIdx (streamAnswer 0 s.engine) } := by
  have hrun := runs_streamEngine cmds s.engine 0 s hcmds hin (streamEngine_zero _ hcursor).symm
  simp only [Nat.zero_add] at hrun
  exact hrun

theorem runs_of_step_eq {s s' : State} (h : step s = step s') (n : Nat) : runs (n + 1) s = runs (n + 1) s' := by
  obtain ⟨u, hstep, -⟩ := step_next s
  rw [runs_succ n s u hstep, runs_succ n s' u (h.symm.trans hstep)]

/-- The stream from an exhausted block is that of the engine after its pass. -/
theorem streamAnswer_shuffle (e : Engine) : streamAnswer 0 (shuffle e) = streamAnswer 1 e := by
  funext n i
  rw [streamAnswer, streamAnswer, passes_shuffle, Nat.zero_add, Nat.add_comm]

/-- The stream from an exhausted block: the first extraction runs pass number 1. -/
theorem runs_stream_exhausted (i : Instr) (cmds : List Instr) (s : State)
    (hcmds : ∀ j ∈ i :: cmds, isExtraction j = true) (hin : s.inputs = issue (i :: cmds))
    (hcursor : s.engine.cursor = 256) :
    runs (i :: cmds).length s = .next
      { s with
        engine := streamEngine (shuffle s.engine) (i :: cmds).length
        inputs := []
        responses := s.responses ++ (i :: cmds).mapIdx (streamAnswer 1 s.engine) } := by
  have hstep := step_exhausted i cmds [] s (hcmds i List.mem_cons_self) (hin.trans (List.append_nil _).symm) hcursor
  have hrun := runs_stream (i :: cmds) { s with engine := shuffle s.engine } hcmds hin
    (congrArg Fin.val (shuffle_cursor s.engine))
  rw [streamAnswer_shuffle] at hrun
  exact (runs_of_step_eq hstep cmds.length).trans hrun

/-! ### The count of passes (R101, R130) -/

/-- After a seeding and `t` extractions: the pass of the seeding, and one for each block begun after the first. -/
theorem runs_count_of_seeded {s u : State} {cmds : List Instr} {pool : Table} {e : Engine}
    (hcmds : ∀ i ∈ cmds, isExtraction i = true) (hstep : step s = .next u) (hengine : u.engine = seedWith pool e)
    (hin : u.inputs = issue cmds) : ∃ t, runs (cmds.length + 1) s = .next t ∧
      t.engine.c = BitVec.ofNat 64 ((cmds.length - 1) / 256 + 1) := by
  have hcursor : u.engine.cursor.val = 0 := by rw [hengine, seedWith_cursor]; rfl
  refine ⟨_, (runs_succ _ s u hstep).trans (runs_stream cmds u hcmds hin hcursor), ?_⟩
  show (streamEngine u.engine cmds.length).c = _
  rw [streamEngine_c, hengine, seedWith_c, BitVec.add_comm, BitVec.ofNat_add]
  rfl

/-- After a clearing and `t` extractions: one pass for each block begun. -/
theorem runs_count_of_cleared {s u : State} {cmds : List Instr} (hcmds : ∀ i ∈ cmds, isExtraction i = true)
    (hstep : step s = .next u) (hengine : u.engine = Engine.reset) (hin : u.inputs = issue cmds) :
    ∃ t, runs (cmds.length + 1) s = .next t ∧ t.engine.c = BitVec.ofNat 64 ((cmds.length + 255) / 256) := by
  cases cmds with
  | nil =>
    refine ⟨u, runs_succ 0 s u hstep, ?_⟩
    rw [hengine]
    rfl
  | cons i cmds =>
    have hcursor : u.engine.cursor = 256 := by rw [hengine, reset_cursor]
    refine ⟨_, (runs_succ _ s u hstep).trans (runs_stream_exhausted i cmds u hcmds hin hcursor), ?_⟩
    show (streamEngine (shuffle u.engine) (i :: cmds).length).c = _
    have hblocks : ((i :: cmds).length + 255) / 256 = 1 + ((i :: cmds).length - 1) / 256 := by
      rw [List.length_cons]
      omega
    rw [streamEngine_c, shuffle_c, hengine, hblocks, BitVec.ofNat_add]
    rfl

/-! ### The first block of the unseeded engine (R71) -/

theorem readWord_zero (v : Table) : readWord v 0 = v[0] := rfl

/-- A word of the first block is the `b` of its own mix step, so the steps after it need not be run. -/
theorem readWord_shuffle_out (e : Engine) (i : Nat) (hi : i < 256) :
    readWord (shuffle e).out (stepIndex i) = (mixSteps (i + 1) (prologue e)).b := by
  rw [shuffle_out, readWord_mixSteps_out_of_lt _ i _ hi (Nat.le_refl 256)]

/-- The extraction from a reset engine, by what it makes of the word. -/
theorem exec_extraction_of_reset (i : Instr) (s : State) (hi : isExtraction i = true) (h : s.engine = Engine.reset) :
    ∃ t, exec i s = .next t ∧ t.engine = { shuffle Engine.reset with cursor := 1 } ∧
      t.responses = s.responses ++ [.ok (drawnData i (readWord (shuffle Engine.reset).out 0))] := by
  refine ⟨_, exec_extraction i s hi, ?_, ?_⟩
  · rw [complete_engine, h, extract_exhausted _ reset_cursor]
  · rw [complete_responses, h, extract_exhausted _ reset_cursor, readWord_zero]

end Sys2Proof.Machine

namespace Sys2Proof.Proofs

open Sys2Proof.Machine

/-- Settles O39: `extract` takes one of its two paths, by the cursor, and the word is shifted. -/
theorem nextInt63Answers : Obligations.NextInt63Answers := by
  unfold Obligations.NextInt63Answers
  refine fun s => ⟨fun h => ?buffered, fun h => ?exhausted⟩
  case buffered => rw [exec_extraction _ _ rfl, extract_buffered _ h]; rfl
  case exhausted => rw [exec_extraction _ _ rfl, extract_exhausted _ (Fin.ext h)]; rfl

/-- Settles O42: an extraction from an exhausted engine, and 13 mix steps over the zero pool. -/
theorem unseededExtraction : Obligations.UnseededExtraction := by
  unfold Obligations.UnseededExtraction
  refine ⟨fun s h => ⟨exec_extraction_of_reset .nextUint64 s rfl h, exec_extraction_of_reset .nextInt63 s rfl h⟩,
    (readWord_shuffle_out Engine.reset 0 (by decide)).trans ?first,
    (readWord_shuffle_out Engine.reset 12 (by decide)).trans ?twelfth⟩
  case first => decide +kernel
  case twelfth => decide +kernel

/-- Settles O43: `runs_stream`. -/
theorem streamAfterSeeding : Obligations.StreamAfterSeeding := by
  unfold Obligations.StreamAfterSeeding
  exact fun s cmds hcmds hcursor hin => ⟨_, runs_stream cmds s hcmds hin hcursor, rfl, rfl, rfl⟩

/-- Settles O44: without a command nothing runs, and otherwise `runs_stream_exhausted`. -/
theorem streamAfterExhaustion : Obligations.StreamAfterExhaustion := by
  unfold Obligations.StreamAfterExhaustion
  intro s cmds hcmds hcursor hin
  cases cmds with
  | nil => exact ⟨s, runs_zero s, hin, (List.append_nil _).symm, hcursor⟩
  | cons i cmds => exact ⟨_, runs_stream_exhausted i cmds s hcmds hin (Fin.ext hcursor), rfl, rfl, rfl⟩

/-- Settles O46: each of the four ways to clear `c` is one step, after which the extractions count their blocks. -/
theorem passCounter : Obligations.PassCounter := by
  unfold Obligations.PassCounter
  refine ⟨passes_c, fun s cmds hcmds => ⟨fun value hin => ?seed, fun hfull hin => ?seedFrom, fun hin => ?new,
    fun hin => ?reset⟩⟩
  case seed =>
    have hstep := (step_of_nextCommand (nextCommand_issue hin)).trans (exec_seed value s)
    exact runs_count_of_seeded hcmds hstep rfl (by rw [complete_inputs, hin]; rfl)
  case seedFrom =>
    have hstep := (step_of_nextCommand (nextCommand_issue hin)).trans (exec_seedFrom_of_full s _ (srcRead_full _ hfull))
    exact runs_count_of_seeded hcmds hstep rfl (by rw [complete_inputs, takeSeedBytes_inputs, hin]; rfl)
  case new =>
    have hstep : step s = .next (complete Engine.reset (.ok 0) s) := step_of_nextCommand (nextCommand_issue hin)
    exact runs_count_of_cleared hcmds hstep rfl (by rw [complete_inputs, hin]; rfl)
  case reset => exact runs_count_of_cleared hcmds (step_of_reset hin) rfl (by rw [hostReset_inputs, hin]; rfl)

end Sys2Proof.Proofs
end
